-- ==== Sys2Proof/Word.lean ====
section
/-! DEFINITION. The words of the FXU: the command word, the operand and result ports, the integer
types of 00_scope.md R10 and R14, and the request tuple of 10_state.md R23. -/

namespace Sys2Proof

/-- The command word CMD[15:0] (30_encoding.md R55). -/
abbrev Cmd := BitVec 16

/-- An operand or result port, 128 bits (10_state.md R23, R24). -/
abbrev Port := BitVec 128

/-- An integer type: signed or unsigned, and its width in bits (00_scope.md R14). The inner type I,
the N types, u128, the exponent, the ratio parts and the one-bit boolean are all of this shape.
DESIGN CHOICE (log 15), safe: which widths an N type may have is WellFormed's check. -/
structure IntTy where
  signed : Bool
  width : Nat
deriving DecidableEq, Repr

/-- The unsigned type of width `w`. -/
abbrev IntTy.uint (w : Nat) : IntTy := ⟨false, w⟩

/-- The signed type of width `w`. -/
abbrev IntTy.sint (w : Nat) : IntTy := ⟨true, w⟩

/-- A request `(CMD, A, B, C)` (10_state.md R23). -/
structure Request where
  cmd : Cmd
  a : Port
  b : Port
  c : Port
deriving DecidableEq, Repr

end Sys2Proof
end

