-- ==== Sys2Proof/Syntax.lean ====
section
/-! DEFINITION. The instructions: one constructor per row of spec/opcode_table.json
(30_encoding.md R57), and the assembler's pseudo-instructions (R68). -/

namespace Sys2Proof

/-- The 32 opcodes (30_encoding.md R57). The six NT opcodes carry their N type (R61). -/
inductive Instr where
  | fromint
  | cfromint
  | fromrat (n : IntTy)
  | cfromrat (n : IntTy)
  | pass
  | zero
  | one
  | iszero
  | ispos
  | isneg
  | cmp
  | muldiv
  | radd
  | rsub
  | cadd
  | csub
  | sadd
  | ssub
  | rmul
  | rdiv
  | cmul
  | cdiv
  | smul
  | sabs
  | spow
  | cmuli (n : IntTy)
  | cdivi (n : IntTy)
  | smuli (n : IntTy)
  | smac (n : IntTy)
  | minv
  | maxv
  | fromratio
deriving DecidableEq, Repr

/-- The pseudo-instructions (30_encoding.md R68). -/
inductive Pseudo where
  | fromInner
  | intoInner
  | default
  | fromUnits
deriving DecidableEq, Repr

end Sys2Proof
end

