-- ==== Sys2Proof/WellFormed.lean ====
section
/-! DEFINITION. The check on instructions: an NT opcode's type is one of the ten N types
(30_encoding.md R60, R61; 00_scope.md R10). The other opcodes carry nothing to check. -/

namespace Sys2Proof

/-- One of the ten N types: signed or unsigned of width 8, 16, 32, 64 or 128 (30_encoding.md R60). -/
def IntTy.isNType (t : IntTy) : Bool :=
  t.width == 8 || t.width == 16 || t.width == 32 || t.width == 64 || t.width == 128

/-- An instruction that a command word can stand for. -/
def Instr.wellFormed : Instr → Bool
  | .fromrat n => n.isNType
  | .cfromrat n => n.isNType
  | .cmuli n => n.isNType
  | .cdivi n => n.isNType
  | .smuli n => n.isNType
  | .smac n => n.isNType
  | .fromint => true
  | .cfromint => true
  | .pass => true
  | .zero => true
  | .one => true
  | .iszero => true
  | .ispos => true
  | .isneg => true
  | .cmp => true
  | .muldiv => true
  | .radd => true
  | .rsub => true
  | .cadd => true
  | .csub => true
  | .sadd => true
  | .ssub => true
  | .rmul => true
  | .rdiv => true
  | .cmul => true
  | .cdiv => true
  | .smul => true
  | .sabs => true
  | .spow => true
  | .minv => true
  | .maxv => true
  | .fromratio => true

end Sys2Proof
end

