-- ==== Sys2Proof/Decode.lean ====
section
/-! DEFINITION. The command decoder of 30_encoding.md R55 to R63, total on all 2^16 words and
rejecting by name, and the encoder of the same tables. -/

namespace Sys2Proof

/-- Why a command word is ILLEGAL (30_encoding.md R63). The response is `(ILLEGAL, 0)` for each. -/
inductive Illegal where
  /-- RSV is not 0 (R59). -/
  | reservedBits
  /-- OP is a reserved value (R58). -/
  | reservedOpcode
  /-- An NT opcode with width code 0, 6 or 7 (R61). -/
  | reservedNType
  /-- NT is not 0 on an opcode that takes no N type (R62). -/
  | ntypeNotTaken
deriving DecidableEq, Repr

/-- An entry of the opcode map: an opcode that takes no N type, or one that does. -/
inductive OpEntry where
  | plain (i : Instr)
  | typed (mk : IntTy → Instr)

/-- OP, the field `CMD[5:0]` (R55). -/
def Cmd.op (w : Cmd) : BitVec 6 := w.extractLsb' 0 6

/-- NT, the field `CMD[9:6]` (R55). -/
def Cmd.nt (w : Cmd) : BitVec 4 := w.extractLsb' 6 4

/-- RSV, the field `CMD[15:10]` (R55). -/
def Cmd.rsv (w : Cmd) : BitVec 6 := w.extractLsb' 10 6

/-- The opcode map (R57); `none` for the reserved values (R58). -/
def opmap (op : BitVec 6) : Option OpEntry :=
  match op.toNat with
  | 0x01 => some (.plain .fromint)
  | 0x02 => some (.plain .cfromint)
  | 0x03 => some (.typed .fromrat)
  | 0x04 => some (.typed .cfromrat)
  | 0x05 => some (.plain .pass)
  | 0x06 => some (.plain .zero)
  | 0x07 => some (.plain .one)
  | 0x08 => some (.plain .iszero)
  | 0x09 => some (.plain .ispos)
  | 0x0A => some (.plain .isneg)
  | 0x0B => some (.plain .cmp)
  | 0x10 => some (.plain .muldiv)
  | 0x11 => some (.plain .radd)
  | 0x12 => some (.plain .rsub)
  | 0x13 => some (.plain .cadd)
  | 0x14 => some (.plain .csub)
  | 0x15 => some (.plain .sadd)
  | 0x16 => some (.plain .ssub)
  | 0x18 => some (.plain .rmul)
  | 0x19 => some (.plain .rdiv)
  | 0x1A => some (.plain .cmul)
  | 0x1B => some (.plain .cdiv)
  | 0x1C => some (.plain .smul)
  | 0x1D => some (.plain .sabs)
  | 0x1E => some (.plain .spow)
  | 0x20 => some (.typed .cmuli)
  | 0x21 => some (.typed .cdivi)
  | 0x22 => some (.typed .smuli)
  | 0x24 => some (.typed .smac)
  | 0x28 => some (.plain .minv)
  | 0x29 => some (.plain .maxv)
  | 0x2A => some (.plain .fromratio)
  | _ => none

/-- The N type of an NT field: NT[3] is the sign, NT[2:0] the width code (R60). -/
def decodeNType (nt : BitVec 4) : Option IntTy :=
  match (nt.extractLsb' 0 3).toNat with
  | 1 => some ⟨nt.getLsbD 3, 8⟩
  | 2 => some ⟨nt.getLsbD 3, 16⟩
  | 3 => some ⟨nt.getLsbD 3, 32⟩
  | 4 => some ⟨nt.getLsbD 3, 64⟩
  | 5 => some ⟨nt.getLsbD 3, 128⟩
  | _ => none

/-- The decoder (R63), its checks in the order the rule gives them. -/
def decode (w : Cmd) : Except Illegal Instr :=
  if w.rsv ≠ 0 then .error .reservedBits
  else
    match opmap w.op with
    | none => .error .reservedOpcode
    | some (.plain i) => if w.nt = 0 then .ok i else .error .ntypeNotTaken
    | some (.typed mk) =>
      match decodeNType w.nt with
      | none => .error .reservedNType
      | some n => .ok (mk n)

/-- The OP value of an instruction (R57). -/
def Instr.opcode : Instr → BitVec 6
  | .fromint => 0x01
  | .cfromint => 0x02
  | .fromrat _ => 0x03
  | .cfromrat _ => 0x04
  | .pass => 0x05
  | .zero => 0x06
  | .one => 0x07
  | .iszero => 0x08
  | .ispos => 0x09
  | .isneg => 0x0A
  | .cmp => 0x0B
  | .muldiv => 0x10
  | .radd => 0x11
  | .rsub => 0x12
  | .cadd => 0x13
  | .csub => 0x14
  | .sadd => 0x15
  | .ssub => 0x16
  | .rmul => 0x18
  | .rdiv => 0x19
  | .cmul => 0x1A
  | .cdiv => 0x1B
  | .smul => 0x1C
  | .sabs => 0x1D
  | .spow => 0x1E
  | .cmuli _ => 0x20
  | .cdivi _ => 0x21
  | .smuli _ => 0x22
  | .smac _ => 0x24
  | .minv => 0x28
  | .maxv => 0x29
  | .fromratio => 0x2A

/-- The width code WC of a width (R60); 0, a reserved code, for a width no N type has. -/
def widthCode (width : Nat) : BitVec 3 :=
  match width with
  | 8 => 1
  | 16 => 2
  | 32 => 3
  | 64 => 4
  | 128 => 5
  | _ => 0

/-- The NT field of an N type (R60). -/
def encodeNType (n : IntTy) : BitVec 4 := BitVec.ofBool n.signed ++ widthCode n.width

/-- The NT field of an instruction: 0000 where it takes no N type (R55, R62). -/
def Instr.ntField : Instr → BitVec 4
  | .fromrat n => encodeNType n
  | .cfromrat n => encodeNType n
  | .cmuli n => encodeNType n
  | .cdivi n => encodeNType n
  | .smuli n => encodeNType n
  | .smac n => encodeNType n
  | .fromint => 0
  | .cfromint => 0
  | .pass => 0
  | .zero => 0
  | .one => 0
  | .iszero => 0
  | .ispos => 0
  | .isneg => 0
  | .cmp => 0
  | .muldiv => 0
  | .radd => 0
  | .rsub => 0
  | .cadd => 0
  | .csub => 0
  | .sadd => 0
  | .ssub => 0
  | .rmul => 0
  | .rdiv => 0
  | .cmul => 0
  | .cdiv => 0
  | .smul => 0
  | .sabs => 0
  | .spow => 0
  | .minv => 0
  | .maxv => 0
  | .fromratio => 0

/-- The command word of a pair of fields, RSV zero (R55). -/
def commandWord (nt : BitVec 4) (op : BitVec 6) : Cmd := 0#6 ++ nt ++ op

/-- The encoder (R55, R57, R60). -/
def encode (i : Instr) : Cmd := commandWord i.ntField i.opcode

/-- The decoder on a word numbered as spec/opcode_table.json numbers it: one command word, its bits
above `nbits` zero (R56). -/
def decodeTableWord (nbits w : Nat) : Option Instr :=
  match decode (BitVec.ofNat 16 (w % 2 ^ nbits)) with
  | .ok i => some i
  | .error _ => none

end Sys2Proof
end

