-- ==== Sys2Proof/Config.lean ====
section
/-! DEFINITION. What is fixed when the unit is built (00_scope.md R4 to R11) and the free values of
the spec. The configuration record is plain data; what it does not fix of RATIO_MUL, and the SMULI draw,
are uninterpreted. -/

namespace Sys2Proof

/-- One known value of RATIO_MUL: `RATIO_MUL(parts, factor, ty) = value` (46_accumulate.md R231). -/
structure RatioEntry where
  parts : Nat
  factor : Int
  ty : IntTy
  value : Int
deriving DecidableEq, Repr

/-- The configuration record of 00_scope.md R11. Which records are an FXU is `Cfg.Valid`
(R4, R5, R7, R9; 46_accumulate.md R231 L1, L2; 70_reset_and_hazards.md R303). -/
structure Cfg where
  /-- W, the inner width (R4). -/
  width : Nat
  /-- DIV, the scale divisor (R5). -/
  div : Nat
  /-- ACCURACY, the per-thing ratio type's constant (R7). -/
  accuracy : Nat
  /-- RATIO_MUL (R8): the values of it that are known. Every value that is not listed is free
  (`Config.ratioFree`). DESIGN CHOICE (log 3). -/
  ratio : List RatioEntry
  /-- LATENCY (R9): steps from acceptance to response, for the requests listed; a request that is
  not listed takes one step. DESIGN CHOICE (log 2): requests are finitely many, so every function
  LATENCY is such a table. -/
  latency : List (Request × Nat)
deriving DecidableEq, Repr

/-- FREE VALUE (log 4): the n-th draw of an SMULI whose sign is zero (45_cross_width.md R214,
93_implementation_defined.md I2). No body: nothing can be proved of its value. -/
opaque Config.draw : Nat → Port

/-- FREE VALUE (log 3): RATIO_MUL where the configuration lists no value of it, the scalar multiply of
the per-thing ratio `f / ACCURACY` by `y`, as the bits of a value of the given type
(46_accumulate.md R231). No body; `ratioMul` reads it as a value of that type (law L1) and puts 0
for `f = 0` (law L2). -/
opaque Config.ratioFree : Cfg → Nat → Int → IntTy → Port

end Sys2Proof
end

