-- ==== Sys2Proof/Machine/Numbers.lean ====
section
/-! DEFINITION. The notation of 00_scope.md section 4: type bounds, fits, saturation, the bit pattern
of a value and the value of a bit pattern, and the division helpers. Numbers are mathematical
integers (R12); every width check is explicit. -/

namespace Sys2Proof

/-- `min_T` (R14). -/
def IntTy.min (t : IntTy) : Int := if t.signed then -((2 ^ (t.width - 1) : Nat) : Int) else 0

/-- `max_T` (R14). -/
def IntTy.max (t : IntTy) : Int :=
  if t.signed then ((2 ^ (t.width - 1) : Nat) : Int) - 1 else ((2 ^ t.width : Nat) : Int) - 1

/-- `fits_T(v)` (R14). -/
abbrev IntTy.Fits (t : IntTy) (v : Int) : Prop := t.min ≤ v ∧ v ≤ t.max

/-- `sat_T(v)` (R14). -/
def IntTy.sat (t : IntTy) (v : Int) : Int :=
  if v < t.min then t.min else if t.max < v then t.max else v

/-- `enc_T(v)`: two's complement if T is signed, plain binary if not (R13). -/
def IntTy.enc (t : IntTy) (v : Int) : BitVec t.width := BitVec.ofInt t.width v

/-- `val_T(bits)` (R13). -/
def IntTy.val (t : IntTy) (bits : BitVec t.width) : Int :=
  if t.signed then bits.toInt else (bits.toNat : Int)

/-- The value a port carries in type T: its low width(T) bits (R17 opW, opN, opU; 10_state.md R28). -/
def IntTy.read (t : IntTy) (p : Port) : Int := t.val (p.setWidth t.width)

/-- A value placed on a port: `enc_T(v)` in the low width(T) bits, zeros above (10_state.md R27). -/
def IntTy.place (t : IntTy) (v : Int) : Port := (t.enc v).setWidth 128

/-- `floor_div`, on the naturals it is used on (R15). -/
def floorDiv (x y : Nat) : Nat := x / y

/-- `mod`, on the naturals it is used on (R15). -/
def floorMod (x y : Nat) : Nat := x % y

/-- `trunc_div(x, y) = signum(x)*signum(y)*floor_div(|x|, |y|)` (R15). -/
def truncDiv (x y : Int) : Int := x.sign * y.sign * (floorDiv x.natAbs y.natAbs : Int)

end Sys2Proof
end

