-- ==== Sys2Proof/Machine/Parameters.lean ====
section
/-! DEFINITION. What the configuration says (00_scope.md R2, R4 to R11): the inner types, the
constraints a configuration must meet, LATENCY, the identity string and the named configurations. -/

namespace Sys2Proof

/-- I, the signed W-bit inner type (R4, R14). -/
def Cfg.inner (c : Cfg) : IntTy := ⟨true, c.width⟩

/-- PrevUnsigned, the unsigned W/2-bit type (R4). -/
def Cfg.prevUnsigned (c : Cfg) : IntTy := ⟨false, c.width / 2⟩

/-- DIV as an integer (R5). -/
def Cfg.scale (c : Cfg) : Int := (c.div : Int)

/-- Laws L1 and L2 of RATIO_MUL, on a known value of it (46_accumulate.md R231). -/
abbrev RatioEntry.Lawful (e : RatioEntry) : Prop :=
  e.ty.Fits e.value ∧ (e.parts = 0 → e.value = 0)

/-- The constraints of R4, R5, R7, R8 and R9 (70_reset_and_hazards.md R303). DEDUCED (log 17): the bound 39 on k loses nothing,
because DIV <= MAX_W < 10^39 for every W. -/
abbrev Cfg.Constraints (c : Cfg) : Prop :=
  (c.width = 32 ∨ c.width = 64 ∨ c.width = 128) ∧
  (∃ k, k < 39 ∧ c.div = 10 ^ k) ∧
  c.scale ≤ c.inner.max ∧
  c.div - 1 ≤ 2 ^ (c.width / 2) - 1 ∧
  0 < c.accuracy ∧ (c.accuracy : Int) ≤ c.inner.max ∧
  (∀ e ∈ c.ratio, e.Lawful) ∧
  ∀ e ∈ c.latency, 1 ≤ e.2

/-- The check of the constraints. -/
def Cfg.valid (c : Cfg) : Bool := decide c.Constraints

/-- The configuration is an FXU's. One that is not is refused by the step
(70_reset_and_hazards.md R303). -/
abbrev Cfg.Valid (c : Cfg) : Prop := c.valid = true

/-- LATENCY of a request: how many steps after its acceptance its response comes (R9). DESIGN CHOICE
(log 2), safe: the whole tuple (CMD, A, B, C) is looked up, so two requests that differ only in a port,
or in bits of one, that the opcode does not read (10_state.md R23, R28) may have different latencies. -/
def Cfg.latencyOf (c : Cfg) (q : Request) : Nat := (c.latency.lookup q).getD 1

/-- PRECISION, the k of DIV = 10^k (R6, 90_conflicts.md C1). No operation reads it. -/
def Cfg.precision (c : Cfg) : Nat := Nat.log 10 c.div

/-- The identity string `FXU<W>-D<k>` (R2). -/
def Cfg.identity (c : Cfg) : String := "FXU" ++ toString c.width ++ "-D" ++ toString c.precision

/-- `FXU64-D9`, the reference configuration, with ACCURACY = DIV (00_scope.md section 3). -/
def Cfg.fxu64d9 : Cfg := ⟨64, 10 ^ 9, 10 ^ 9, [], []⟩

/-- `FXU128-D18` (00_scope.md section 3). -/
def Cfg.fxu128d18 : Cfg := ⟨128, 10 ^ 18, 10 ^ 18, [], []⟩

/-- `FXU32-D4` (00_scope.md section 3). -/
def Cfg.fxu32d4 : Cfg := ⟨32, 10 ^ 4, 10 ^ 4, [], []⟩

/-- `FXU128-D19` (00_scope.md section 3). -/
def Cfg.fxu128d19 : Cfg := ⟨128, 10 ^ 19, 10 ^ 19, [], []⟩

/-- `FXU64-D0` (00_scope.md section 3). -/
def Cfg.fxu64d0 : Cfg := ⟨64, 1, 1, [], []⟩

end Sys2Proof
end

