-- ==== Sys2Proof/Machine/State.lean ====
section
/-! DEFINITION. The state of the machine: the configuration fixed at build, and the request protocol
of 10_state.md and 70_reset_and_hazards.md. The unit stores nothing else (R20): it has no register
file, no program counter, no flags, no memory and no trap state. -/

namespace Sys2Proof.Machine

/-- STATUS (60_exceptions.md R270): five codes and no others (93_implementation_defined.md I9). -/
inductive Status where
  /-- 000: the result R is valid. -/
  | ok
  /-- 001: the checked operation has no result. -/
  | none
  /-- 010: a raw or non-checked-rational step overflowed W bits. -/
  | faultOvf
  /-- 011: a raw or non-checked-rational division had divisor 0. -/
  | faultDiv0
  /-- 100: the command word is reserved or malformed. -/
  | illegal
deriving DecidableEq, Repr

/-- A response `(STATUS, R)` (10_state.md R24). -/
structure Response where
  status : Status
  r : Port
deriving DecidableEq, Repr

/-- How an operation ends (00_scope.md R16): a value of a result type, or one of the other statuses. -/
inductive Answer where
  /-- `return OK(v)`, v of result type T. -/
  | ok (t : IntTy) (v : Int)
  /-- `return NONE`. -/
  | none
  /-- `raise FaultOverflow()`. -/
  | faultOvf
  /-- `raise FaultDivZero()`. -/
  | faultDiv0
  /-- `raise Illegal()`. -/
  | illegal
deriving DecidableEq, Repr

/-- A request in flight: the sampled CMD, A, B and C (20_memory.md R44) and the steps left until its
response (00_scope.md R9). -/
structure Flight where
  req : Request
  left : Nat
deriving DecidableEq, Repr

/-- The state. Every field is plain data. -/
structure State where
  /-- W, DIV, ACCURACY, RATIO_MUL and LATENCY, fixed at build (00_scope.md R11). -/
  cfg : Cfg
  /-- The reset input (70_reset_and_hazards.md R302; log 9). -/
  rst : Bool
  /-- The request the requester now presents on CMD, A, B and C, if any (10_state.md R23; log 7). -/
  request : Option Request
  /-- The request accepted and not yet answered, if any (10_state.md section 4, 20_memory.md R43). -/
  inFlight : Option Flight
  /-- The response pending, if any (70_reset_and_hazards.md R301; log 5, log 6). -/
  response : Option Response
  /-- The model's own: SMULI draws taken so far (45_cross_width.md R214; log 4). -/
  draws : Nat
deriving DecidableEq, Repr

/-- The faults that stop this machine: NONE EXIST. The unit "never aborts" (20_memory.md R44) and no
status starts a trap (60_exceptions.md R274); FAULT_OVF, FAULT_DIV0 and ILLEGAL are responses, after
which the unit accepts the next request. Nobody raises a fault, which is safe: log 10. -/
inductive Fault where
deriving DecidableEq, Repr

/-- The refusals. -/
inductive Refusal where
  /-- An opcode with no meaning yet, by its mnemonic. Raised by a refused arm of `exec`; no arm is one
  now. Safe: the run stops. -/
  | notModelled (mnemonic : String)
  /-- The configuration breaks 00_scope.md R4, R5, R7, R8 or R9, so the unit is not an FXU. Raised by
  `step` before anything else (70_reset_and_hazards.md R303, 93_implementation_defined.md I4, I11).
  Safe: the run stops. -/
  | invalidConfiguration
deriving DecidableEq, Repr

/-- The outcome of a step or of a meaning. -/
abbrev Result := Host.Outcome State Fault Refusal

/-- The machine right after reset (70_reset_and_hazards.md R301): no request in flight, no response
pending, ready to accept. DESIGN CHOICE (log 1), unsafe where a claim is about this state alone: the
configuration is the reference configuration FXU64-D9. DESIGN CHOICE (log 4): no draw taken; no
statement rests on that count, and one that did would be unsafe. -/
def State.reset : State :=
  { cfg := Cfg.fxu64d9
    rst := false
    request := none
    inFlight := none
    response := none
    draws := 0 }

end Sys2Proof.Machine
end

