-- ==== Sys2Proof/Machine/Operands.lean ====
section
/-! DEFINITION. The operand forms (30_encoding.md R65, R66; 00_scope.md R17): what a meaning reads
from the sampled ports, and the table of forms and result types per opcode. -/

namespace Sys2Proof.Machine

/-- CMD, A, B and C all zero. -/
def zeroRequest : Request := ⟨0, 0, 0, 0⟩

/-- The sampled request (20_memory.md R44). DESIGN CHOICE (log 13), safe: all zeros where no request
is in flight; `step` runs a meaning only where one is. -/
def State.sampled (s : State) : Request :=
  match s.inFlight with
  | some f => f.req
  | none => zeroRequest

/-- `opW(A)`: form W on port A. -/
def State.innerA (s : State) : Int := s.cfg.inner.read s.sampled.a

/-- `opW(B)`: form W on port B. -/
def State.innerB (s : State) : Int := s.cfg.inner.read s.sampled.b

/-- `opW(C)`: form W on port C. -/
def State.innerC (s : State) : Int := s.cfg.inner.read s.sampled.c

/-- `opN(B)`: form N on port B. -/
def State.typedB (s : State) (n : IntTy) : Int := n.read s.sampled.b

/-- `opU(P, w)`: form U(w) on a port, as a natural number. -/
def unsignedOf (w : Nat) (p : Port) : Nat := (p.setWidth w).toNat

/-- The one-bit boolean result type of the predicates (10_state.md R27). -/
def boolTy : IntTy := ⟨false, 1⟩

/-- The forms of an opcode's three ports; `none` is a port the opcode ignores (R65). -/
structure PortForms where
  a : Option IntTy
  b : Option IntTy
  c : Option IntTy
deriving DecidableEq, Repr

/-- The operands of each opcode (R66). -/
def operandForms (cfg : Cfg) : Instr → PortForms
  | .fromint => ⟨some cfg.inner, none, none⟩
  | .cfromint => ⟨some cfg.inner, none, none⟩
  | .fromrat n => ⟨none, some n, some cfg.inner⟩
  | .cfromrat n => ⟨none, some n, some cfg.inner⟩
  | .pass => ⟨some cfg.inner, none, none⟩
  | .zero => ⟨none, none, none⟩
  | .one => ⟨none, none, none⟩
  | .iszero => ⟨some cfg.inner, none, none⟩
  | .ispos => ⟨some cfg.inner, none, none⟩
  | .isneg => ⟨some cfg.inner, none, none⟩
  | .cmp => ⟨some cfg.inner, some cfg.inner, none⟩
  | .muldiv => ⟨some (.uint 128), some (.uint 128), some (.uint 128)⟩
  | .radd => ⟨some cfg.inner, some cfg.inner, none⟩
  | .rsub => ⟨some cfg.inner, some cfg.inner, none⟩
  | .cadd => ⟨some cfg.inner, some cfg.inner, none⟩
  | .csub => ⟨some cfg.inner, some cfg.inner, none⟩
  | .sadd => ⟨some cfg.inner, some cfg.inner, none⟩
  | .ssub => ⟨some cfg.inner, some cfg.inner, none⟩
  | .rmul => ⟨some cfg.inner, some cfg.inner, none⟩
  | .rdiv => ⟨some cfg.inner, some cfg.inner, none⟩
  | .cmul => ⟨some cfg.inner, some cfg.inner, none⟩
  | .cdiv => ⟨some cfg.inner, some cfg.inner, none⟩
  | .smul => ⟨some cfg.inner, some cfg.inner, none⟩
  | .sabs => ⟨some cfg.inner, none, none⟩
  | .spow => ⟨some cfg.inner, some (.uint 64), none⟩
  | .cmuli n => ⟨some cfg.inner, some n, none⟩
  | .cdivi n => ⟨some cfg.inner, some n, none⟩
  | .smuli n => ⟨some cfg.inner, some n, none⟩
  | .smac n => ⟨some cfg.inner, some n, none⟩
  | .minv => ⟨none, none, none⟩
  | .maxv => ⟨none, none, none⟩
  | .fromratio => ⟨none, some cfg.prevUnsigned, none⟩

/-- The result type of each opcode (R66). DESIGN CHOICE (log 19), unsafe if R27 is meant as written:
10_state.md R27 lists rational results as of type N, where R66, 40_construction.md R100, R103 and R104
give FROMRAT and CFROMRAT results of type I, and no file settles it; the model takes I. -/
def resultType (cfg : Cfg) : Instr → IntTy
  | .fromint => cfg.inner
  | .cfromint => cfg.inner
  | .fromrat _ => cfg.inner
  | .cfromrat _ => cfg.inner
  | .pass => cfg.inner
  | .zero => cfg.inner
  | .one => cfg.inner
  | .iszero => boolTy
  | .ispos => boolTy
  | .isneg => boolTy
  | .cmp => cfg.inner
  | .muldiv => .uint 128
  | .radd => cfg.inner
  | .rsub => cfg.inner
  | .cadd => cfg.inner
  | .csub => cfg.inner
  | .sadd => cfg.inner
  | .ssub => cfg.inner
  | .rmul => cfg.inner
  | .rdiv => cfg.inner
  | .cmul => cfg.inner
  | .cdiv => cfg.inner
  | .smul => cfg.inner
  | .sabs => cfg.inner
  | .spow => cfg.inner
  | .cmuli n => n
  | .cdivi n => n
  | .smuli n => n
  | .smac n => n
  | .minv => cfg.inner
  | .maxv => cfg.inner
  | .fromratio => cfg.inner

end Sys2Proof.Machine
end

