-- ==== Sys2Proof/Machine/Flags.lean ====
section
/-! DEFINITION. The FXU has no flags (10_state.md R29); STATUS is its only condition. This file holds
the status codes (60_exceptions.md R270), the response an answer makes (10_state.md R27), and the
three failure philosophies: raw faults, checked gives NONE, saturating clamps (42_add_sub.md R150). -/

namespace Sys2Proof.Machine

/-- The three-bit STATUS code (60_exceptions.md R270). -/
def Status.code : Status → BitVec 3
  | .ok => 0
  | .none => 1
  | .faultOvf => 2
  | .faultDiv0 => 3
  | .illegal => 4

/-- The response an answer makes: the placed value for OK, R all zeros otherwise (10_state.md R27). -/
def Answer.response : Answer → Response
  | .ok t v => ⟨.ok, t.place v⟩
  | .none => ⟨.none, 0⟩
  | .faultOvf => ⟨.faultOvf, 0⟩
  | .faultDiv0 => ⟨.faultDiv0, 0⟩
  | .illegal => ⟨.illegal, 0⟩

/-- Raw: `if not fits_T(v): raise FaultOverflow()` (R151). -/
def Answer.raw (t : IntTy) (v : Int) : Answer := if t.Fits v then .ok t v else .faultOvf

/-- Checked: `if not fits_T(v): return NONE` (R153). -/
def Answer.checked (t : IntTy) (v : Int) : Answer := if t.Fits v then .ok t v else .none

/-- Saturating: `return OK(sat_T(v))` (R155). -/
def Answer.saturated (t : IntTy) (v : Int) : Answer := .ok t (t.sat v)

/-- The answer of a checked operation whose result is a value or FAIL: FAIL gives NONE. -/
def Answer.ofOption (t : IntTy) : Option Int → Answer
  | .some v => .ok t v
  | .none => Answer.none

/-- A boolean answer: 1 or 0 (40_construction.md R108). -/
def Answer.ofBool (b : Bool) : Answer := .ok boolTy (if b then 1 else 0)

end Sys2Proof.Machine
end

