-- ==== Sys2Proof/Machine/Ops.lean ====
section
/-! DEFINITION. The named operations over the state: accepting a request, working on it, answering
it, and reset. The FXU takes no exception and returns from none (60_exceptions.md R274, R275): a
status other than OK is answered as every status is, by `State.answer`. -/

namespace Sys2Proof.Machine

/-- The response is given: it is pending, and no request is in flight (10_state.md R24,
60_exceptions.md R274). -/
def State.finish (s : State) (a : Answer) : State :=
  { s with inFlight := none, response := some a.response }

/-- Every meaning ends here: the next state with the answer given (00_scope.md R16). -/
def State.answer (s : State) (a : Answer) : Result := .next (s.finish a)

/-- One SMULI draw is taken (45_cross_width.md R214). -/
def State.drawn (s : State) : State := { s with draws := s.draws + 1 }

/-- The presented request is accepted: its ports are sampled, and the steps until its response are
LATENCY of it (20_memory.md R44, 00_scope.md R9). DESIGN CHOICE (log 6), unsafe for a claim about how
long a response stays pending: the earlier response is no longer pending. DESIGN CHOICE (log 7), unsafe
for a claim that no second request follows: acceptance takes the request off the ports. -/
def State.accept (s : State) (q : Request) : State :=
  { s with request := none, inFlight := some ⟨q, s.cfg.latencyOf q⟩, response := none }

/-- One step of work on the request in flight that does not end it (00_scope.md R9). -/
def State.work (s : State) (f : Flight) : State :=
  { s with inFlight := some ⟨f.req, f.left - 1⟩ }

/-- Reset: a request in flight is aborted without a response, no response is pending, the
configuration is unaffected (70_reset_and_hazards.md R300 to R302). DESIGN CHOICE (log 9), unsafe for a
claim about its duration or the ports after it: one step is one reset pulse, and what the requester
presents is the requester's. -/
def State.resetUnit (s : State) : State :=
  { s with rst := false, inFlight := none, response := none }

/-- The answer to a command word that does not decode (30_encoding.md R58 to R62). -/
def State.answerIllegal (s : State) : Result := s.answer .illegal

/-- The ports as driven now: those of the request in flight, else those presented, else zeros. -/
def State.driven (s : State) : Request :=
  match s.inFlight with
  | some f => f.req
  | none => s.request.getD zeroRequest

/-- The state with a command in flight, its response due at the next step, on the ports as driven
now: what `withFetchWord` sets (log 14). -/
def State.withCommand (s : State) (w : Cmd) : State :=
  { s with
    rst := false
    inFlight := some ⟨⟨w, s.driven.a, s.driven.b, s.driven.c⟩, 1⟩
    response := none }

end Sys2Proof.Machine
end

