-- ==== Sys2Proof/Machine/Accumulate.lean ====
section
/-! DEFINITION. The multiply-accumulate-with-scaling engine (46_accumulate.md R230 to R235). -/

namespace Sys2Proof.Machine

/-- `RATIO_MUL(f, y, N)` (R231): the configuration's value where it lists one; else a free value of
type N (L1), and 0 for f = 0 (L2). Nothing else is known of it (log 3). -/
def ratioMul (c : Cfg) (f : Nat) (y : Int) (n : IntTy) : Int :=
  match c.ratio.find? (fun e => e.parts == f && e.factor == y && e.ty == n) with
  | some e => e.value
  | none => if f = 0 then 0 else n.read (Config.ratioFree c f y n)

/-- The excess of SMAC: the whole part times y plus the ratio part, saturating in N (R232 steps 1 to
5); |MIN_W| = 2^(W-1) (90_conflicts.md C3). -/
def smacExcess (c : Cfg) (n : IntTy) (x y : Int) : Int :=
  let parts := x.natAbs
  let nat := n.sat (floorDiv parts c.div : Int)
  let frac := floorMod parts c.div
  n.sat (n.sat (y * nat) + ratioMul c frac y n)

/-- SMAC's value for self x and int y of type N (R232 step 6). -/
def smacValue (c : Cfg) (n : IntTy) (x y : Int) : Int :=
  if 0 ≤ x then n.sat (y + smacExcess c n x y) else n.sat (y - smacExcess c n x y)

/-- SMAC (R232). -/
def execSmac (n : IntTy) (s : State) : Result :=
  s.answer (.ok n (smacValue s.cfg n s.innerA (s.typedB n)))

end Sys2Proof.Machine
end

