-- ==== Sys2Proof/Machine/AddSub.lean ====
section
/-! DEFINITION. The add/subtract unit (42_add_sub.md R150 to R156): one exact sum or difference, three
ways to fail. -/

namespace Sys2Proof.Machine

/-- RADD (R151). -/
def execRadd (s : State) : Result := s.answer (.raw s.cfg.inner (s.innerA + s.innerB))

/-- RSUB (R152). -/
def execRsub (s : State) : Result := s.answer (.raw s.cfg.inner (s.innerA - s.innerB))

/-- CADD (R153). -/
def execCadd (s : State) : Result := s.answer (.checked s.cfg.inner (s.innerA + s.innerB))

/-- CSUB (R154). -/
def execCsub (s : State) : Result := s.answer (.checked s.cfg.inner (s.innerA - s.innerB))

/-- SADD (R155). -/
def execSadd (s : State) : Result := s.answer (.saturated s.cfg.inner (s.innerA + s.innerB))

/-- SSUB (R156). -/
def execSsub (s : State) : Result := s.answer (.saturated s.cfg.inner (s.innerA - s.innerB))

end Sys2Proof.Machine
end

