-- ==== Sys2Proof/Machine/Bounds.lean ====
section
/-! DEFINITION. Bounds and per-thing ratio conversion (47_bounds_conversion.md R250 to R252). -/

namespace Sys2Proof.Machine

/-- FROMRATIO's value for ratio parts f (R252): `checked_from_rational(f, ACCURACY)`, or MAX_W. -/
def ratioValue (c : Cfg) (f : Nat) : Int :=
  if c.inner.Fits ((f : Int) * c.scale) then truncDiv ((f : Int) * c.scale) (c.accuracy : Int)
  else c.inner.max

/-- MINV (R250). -/
def execMinv (s : State) : Result := s.answer (.ok s.cfg.inner s.cfg.inner.min)

/-- MAXV (R251). -/
def execMaxv (s : State) : Result := s.answer (.ok s.cfg.inner s.cfg.inner.max)

/-- FROMRATIO (R252). -/
def execFromratio (s : State) : Result :=
  s.answer (.ok s.cfg.inner (ratioValue s.cfg (unsignedOf (s.cfg.width / 2) s.sampled.b)))

end Sys2Proof.Machine
end

