-- ==== Sys2Proof/Machine/Construction.lean ====
section
/-! DEFINITION. Construction, constants, predicates and compare (40_construction.md R100 to R111). -/

namespace Sys2Proof.Machine

/-- The raw rescaled division `(n * DIV) / d` at W bits: divisor first, then each step checked
(40_construction.md R103, 43_mul_div.md R172, 60_exceptions.md R272). The result is of type I; for
FROMRAT that is the DESIGN CHOICE of log 19, since 10_state.md R27 says N. -/
def rawScaledDiv (c : Cfg) (n d : Int) : Answer :=
  if d = 0 then .faultDiv0
  else if c.inner.Fits (n * c.scale) then .raw c.inner (truncDiv (n * c.scale) d)
  else .faultOvf

/-- `checked_from_rational(n, d)`: a value or FAIL (R104). -/
def checkedRational (c : Cfg) (n d : Int) : Option Int :=
  if d = 0 then none
  else if ¬ c.inner.Fits n then none
  else if ¬ c.inner.Fits (n * c.scale) then none
  else if c.inner.Fits (truncDiv (n * c.scale) d) then some (truncDiv (n * c.scale) d)
  else none

/-- FROMINT (R101). -/
def execFromint (s : State) : Result := s.answer (.saturated s.cfg.inner (s.innerA * s.cfg.scale))

/-- CFROMINT (R102). -/
def execCfromint (s : State) : Result := s.answer (.checked s.cfg.inner (s.innerA * s.cfg.scale))

/-- FROMRAT (R103): the numerator saturates into the inner width. DESIGN CHOICE (log 19): the result is
of type I. -/
def execFromrat (n : IntTy) (s : State) : Result :=
  s.answer (rawScaledDiv s.cfg (s.cfg.inner.sat (s.typedB n)) s.innerC)

/-- CFROMRAT (R104). DESIGN CHOICE (log 19): the result is of type I. -/
def execCfromrat (n : IntTy) (s : State) : Result :=
  s.answer (.ofOption s.cfg.inner (checkedRational s.cfg (s.typedB n) s.innerC))

/-- PASS (R105). -/
def execPass (s : State) : Result := s.answer (.ok s.cfg.inner s.innerA)

/-- ZERO (R106). -/
def execZero (s : State) : Result := s.answer (.ok s.cfg.inner 0)

/-- ONE (R107). -/
def execOne (s : State) : Result := s.answer (.ok s.cfg.inner s.cfg.scale)

/-- ISZERO (R108). -/
def execIszero (s : State) : Result := s.answer (.ofBool (decide (s.innerA = 0)))

/-- ISPOS (R109). -/
def execIspos (s : State) : Result := s.answer (.ofBool (decide (0 < s.innerA)))

/-- ISNEG (R110). -/
def execIsneg (s : State) : Result := s.answer (.ofBool (decide (s.innerA < 0)))

/-- CMP (R111): the subtraction is exact. -/
def execCmp (s : State) : Result := s.answer (.ok s.cfg.inner (s.innerA - s.innerB).sign)

end Sys2Proof.Machine
end

