-- ==== Sys2Proof/Machine/Primitive.lean ====
section
/-! DEFINITION. The widened-arithmetic primitive and the sign and magnitude helpers
(41_widened_primitive.md R130 to R135). The product is exact, as the 256-bit intermediate holds it
(R132). -/

namespace Sys2Proof.Machine

/-- `MULDIV(a, b, c)`: `floor(a*b/c)`, or FAIL (R130). -/
def mulDiv (a b c : Nat) : Option Nat :=
  if c = 0 then none
  else if floorDiv (a * b) c < 2 ^ 128 then some (floorDiv (a * b) c)
  else none

/-- `SPLIT(x)`: sign and exact magnitude (R133). -/
def splitSign (x : Int) : Int × Nat := (x.sign, x.natAbs)

/-- `RESIGN(s, m)`: `s * m` if it fits I, FAIL otherwise (R134). -/
def resign (c : Cfg) (sgn : Int) (m : Nat) : Option Int :=
  if c.inner.Fits (sgn * (m : Int)) then some (sgn * (m : Int)) else none

/-- The pattern the checked operations share: `|x| * |y| / |z|` through the primitive, re-signed in
the inner width by the given sign (R133 to R135). -/
def signedMulDiv (c : Cfg) (sgn : Int) (a b d : Nat) : Option Int :=
  match mulDiv a b d with
  | some m => resign c sgn m
  | none => none

/-- MULDIV (R131): NONE where the primitive fails. -/
def execMuldiv (s : State) : Result :=
  s.answer <|
    match mulDiv (unsignedOf 128 s.sampled.a) (unsignedOf 128 s.sampled.b)
        (unsignedOf 128 s.sampled.c) with
    | some q => .ok (.uint 128) (q : Int)
    | none => .none

end Sys2Proof.Machine
end

