-- ==== Sys2Proof/Machine/MulDiv.lean ====
section
/-! DEFINITION. The multiply/divide unit (43_mul_div.md R170 to R174): raw at W bits, checked through
the widened primitive. -/

namespace Sys2Proof.Machine

/-- CMUL's value for inner values x and y, or FAIL (R173). -/
def checkedMul (c : Cfg) (x y : Int) : Option Int :=
  let (sx, mx) := splitSign x
  let (sy, my) := splitSign y
  signedMulDiv c (sx * sy) mx my c.div

/-- CDIV's value for inner values x and y, or FAIL, with the document's early exits (R174). -/
def checkedDiv (c : Cfg) (x y : Int) : Option Int :=
  if y = 0 then none
  else if x = 0 then some 0
  else if x = c.inner.min ∧ y = -1 then none
  else
    let (sx, mx) := splitSign x
    let (sy, my) := splitSign y
    signedMulDiv c (sx * sy) mx c.div my

/-- RMUL (R171): the W-bit product is checked, then divided by DIV. -/
def execRmul (s : State) : Result :=
  s.answer <|
    if s.cfg.inner.Fits (s.innerA * s.innerB) then
      .ok s.cfg.inner (truncDiv (s.innerA * s.innerB) s.cfg.scale)
    else .faultOvf

/-- RDIV (R172). -/
def execRdiv (s : State) : Result := s.answer (rawScaledDiv s.cfg s.innerA s.innerB)

/-- CMUL (R173). -/
def execCmul (s : State) : Result :=
  s.answer (.ofOption s.cfg.inner (checkedMul s.cfg s.innerA s.innerB))

/-- CDIV (R174). -/
def execCdiv (s : State) : Result :=
  s.answer (.ofOption s.cfg.inner (checkedDiv s.cfg s.innerA s.innerB))

end Sys2Proof.Machine
end

