-- ==== Sys2Proof/Machine/CrossWidth.lean ====
section
/-! DEFINITION. Cross-width scalar multiply and divide (45_cross_width.md R210 to R214). -/

namespace Sys2Proof.Machine

/-- CMULI's value for self x, other o and type N, or FAIL (R211): o narrowed into the inner width, the
product re-signed there, and the result narrowed into N. -/
def checkedMulInt (c : Cfg) (n : IntTy) (x o : Int) : Option Int :=
  if c.inner.Fits o then
    match checkedMul c x o with
    | some v => if n.Fits v then some v else none
    | none => none
  else none

/-- CDIVI's value for self x, other o and type N, or FAIL (R212). -/
def checkedDivInt (c : Cfg) (n : IntTy) (x o : Int) : Option Int :=
  if ¬ c.inner.Fits o then none
  else if o = 0 then none
  else if ¬ c.inner.Fits (truncDiv x o) then none
  else if n.Fits (truncDiv (truncDiv x o) c.scale) then some (truncDiv (truncDiv x o) c.scale)
  else none

/-- SMULI's value for self x, other o and type N (R213): CMULI's value, else a bound of N by the sign
of signum(o)*signum(x); none where that sign is zero, for which the spec names no value (R214). -/
def saturatingMulInt (c : Cfg) (n : IntTy) (x o : Int) : Option Int :=
  match checkedMulInt c n x o with
  | some v => some v
  | none =>
    if 0 < o.sign * x.sign then some n.max else if o.sign * x.sign < 0 then some n.min else none

/-- `DRAW_N`: the next draw, read as a value of type N (R214; log 4). -/
def drawOf (n : IntTy) (k : Nat) : Int := n.read (Config.draw k)

/-- CMULI (R211). -/
def execCmuli (n : IntTy) (s : State) : Result :=
  s.answer (.ofOption n (checkedMulInt s.cfg n s.innerA (s.typedB n)))

/-- CDIVI (R212). -/
def execCdivi (n : IntTy) (s : State) : Result :=
  s.answer (.ofOption n (checkedDivInt s.cfg n s.innerA (s.typedB n)))

/-- SMULI (R213): its value; at sign zero a fresh draw (R214). -/
def execSmuli (n : IntTy) (s : State) : Result :=
  match saturatingMulInt s.cfg n s.innerA (s.typedB n) with
  | some v => s.answer (.ok n v)
  | none => s.drawn.answer (.ok n (drawOf n s.draws))

end Sys2Proof.Machine
end

