-- ==== Sys2Proof/Machine/Saturating.lean ====
section
/-! DEFINITION. The saturating clamp logic (44_saturating.md R190 to R193). -/

namespace Sys2Proof.Machine

/-- The clamp mux `CLAMP(r, s)` (R190). DESIGN CHOICE (log 12), safe: FAIL with sign 0, which the rule
says cannot occur, gives 0; `checkedMul_fail_sign` proves that it does not occur. -/
def clamp (c : Cfg) (r : Option Int) (sgn : Int) : Int :=
  match r with
  | some v => v
  | none => if 0 < sgn then c.inner.max else if sgn < 0 then c.inner.min else 0

/-- SMUL's value for inner values x and y (R191). -/
def saturatingMul (c : Cfg) (x y : Int) : Int := clamp c (checkedMul c x y) (x.sign * y.sign)

/-- `bitlength(e)`: the position of the highest set bit plus one (R193). -/
def bitLength (e : Nat) : Nat := if e = 0 then 0 else Nat.log2 e + 1

/-- The bits of e, least significant first, up to `bitlength(e)` (R193). -/
def bitsOf (e : Nat) : List Bool := (List.range (bitLength e)).map (fun k => e.testBit k)

/-- SPOW's loop: at each bit multiply the result if the bit is set, then square acc (R193,
92_eei_decisions.md D42). The last squaring is computed and never used. -/
def powLoop (c : Cfg) : List Bool → Int → Int → Int
  | [], result, _ => result
  | bit :: rest, result, acc =>
    powLoop c rest (if bit then saturatingMul c result acc else result) (saturatingMul c acc acc)

/-- SPOW's value for base x and exponent e (R193). -/
def saturatingPow (c : Cfg) (x : Int) (e : Nat) : Int :=
  if e = 0 then c.scale else powLoop c (bitsOf e) c.scale x

/-- SMUL (R191). -/
def execSmul (s : State) : Result :=
  s.answer (.ok s.cfg.inner (saturatingMul s.cfg s.innerA s.innerB))

/-- SABS (R192). -/
def execSabs (s : State) : Result :=
  s.answer (.ok s.cfg.inner
    (if s.innerA = s.cfg.inner.min then s.cfg.inner.max
     else if s.innerA < 0 then -s.innerA else s.innerA))

/-- SPOW (R193). -/
def execSpow (s : State) : Result :=
  s.answer (.ok s.cfg.inner (saturatingPow s.cfg s.innerA (unsignedOf 64 s.sampled.b)))

end Sys2Proof.Machine
end

