-- ==== Sys2Proof/Machine/Dispatch.lean ====
section
/-! DEFINITION. The dispatch: one arm per opcode of 30_encoding.md R57, one direct call of its meaning. -/

namespace Sys2Proof.Machine

def exec (i : Instr) (s : State) : Host.Outcome State Fault Refusal :=
  match i with
  | .fromint => Sys2Proof.Machine.execFromint s
  | .cfromint => Sys2Proof.Machine.execCfromint s
  | .fromrat n => Sys2Proof.Machine.execFromrat n s
  | .cfromrat n => Sys2Proof.Machine.execCfromrat n s
  | .pass => Sys2Proof.Machine.execPass s
  | .zero => Sys2Proof.Machine.execZero s
  | .one => Sys2Proof.Machine.execOne s
  | .iszero => Sys2Proof.Machine.execIszero s
  | .ispos => Sys2Proof.Machine.execIspos s
  | .isneg => Sys2Proof.Machine.execIsneg s
  | .cmp => Sys2Proof.Machine.execCmp s
  | .muldiv => Sys2Proof.Machine.execMuldiv s
  | .radd => Sys2Proof.Machine.execRadd s
  | .rsub => Sys2Proof.Machine.execRsub s
  | .cadd => Sys2Proof.Machine.execCadd s
  | .csub => Sys2Proof.Machine.execCsub s
  | .sadd => Sys2Proof.Machine.execSadd s
  | .ssub => Sys2Proof.Machine.execSsub s
  | .rmul => Sys2Proof.Machine.execRmul s
  | .rdiv => Sys2Proof.Machine.execRdiv s
  | .cmul => Sys2Proof.Machine.execCmul s
  | .cdiv => Sys2Proof.Machine.execCdiv s
  | .smul => Sys2Proof.Machine.execSmul s
  | .sabs => Sys2Proof.Machine.execSabs s
  | .spow => Sys2Proof.Machine.execSpow s
  | .cmuli n => Sys2Proof.Machine.execCmuli n s
  | .cdivi n => Sys2Proof.Machine.execCdivi n s
  | .smuli n => Sys2Proof.Machine.execSmuli n s
  | .smac n => Sys2Proof.Machine.execSmac n s
  | .minv => Sys2Proof.Machine.execMinv s
  | .maxv => Sys2Proof.Machine.execMaxv s
  | .fromratio => Sys2Proof.Machine.execFromratio s

end Sys2Proof.Machine
end

