-- ==== Sys2Proof/Machine/Run.lean ====
section
/-! DEFINITION. What the unit does in a step, for a valid configuration (20_memory.md R43, R44;
70_reset_and_hazards.md R301 to R306). -/

namespace Sys2Proof.Machine

/-- The command in flight is executed: the meaning of the decoded instruction, or ILLEGAL
(30_encoding.md R63). -/
def runCommand (s : State) (w : Cmd) : Result :=
  match decode w with
  | .ok i => exec i s
  | .error _ => s.answerIllegal

/-- A step does one thing (log 8): reset; or a step of work on the request in flight, the last of
which gives the response; or, when idle, the acceptance of a presented request; or nothing. -/
def advance (s : State) : Result :=
  if s.rst then .next s.resetUnit
  else
    match s.inFlight with
    | some f => if f.left ≤ 1 then runCommand s f.req.cmd else .next (s.work f)
    | none =>
      match s.request with
      | some q => .next (s.accept q)
      | none => .next s

end Sys2Proof.Machine
end

