-- ==== Sys2Proof/Machine/Step.lean ====
section
/-! DEFINITION. One step of the machine, and the placing of a command where the next step runs it. -/

namespace Sys2Proof.Machine

/-- One step. A configuration that is not an FXU is refused before anything else
(70_reset_and_hazards.md R303; log 11). -/
def step (s : State) : Host.Outcome State Fault Refusal :=
  if s.cfg.Valid then advance s else .refused .invalidConfiguration

/-- `s` with a command word, numbered as spec/opcode_table.json numbers it, in flight and due at the
next step (log 14). -/
def State.withFetchWord (s : State) (nbits w : Nat) : State :=
  s.withCommand (BitVec.ofNat 16 (w % 2 ^ nbits))

end Sys2Proof.Machine
end

