-- ==== Sys2Proof/Machine/Assembler.lean ====
section
/-! DEFINITION. The assembler of 30_encoding.md R67 and R68: one request from a line of text. It is
the requester's tool, no part of the unit; `step` does not call it. DESIGN CHOICE (log 16), safe: blanks
around operands are skipped, mnemonics and types are written in the case the spec writes them. -/

namespace Sys2Proof.Machine

/-- The type suffix of R67: `u8` to `i128`. -/
def typeName (n : IntTy) : String := (if n.signed then "i" else "u") ++ toString n.width

/-- The mnemonic of an instruction with its suffix `.T` where it takes an N type (R57, R67). -/
def mnemonic : Instr → String
  | .fromint => "FROMINT"
  | .cfromint => "CFROMINT"
  | .fromrat n => "FROMRAT." ++ typeName n
  | .cfromrat n => "CFROMRAT." ++ typeName n
  | .pass => "PASS"
  | .zero => "ZERO"
  | .one => "ONE"
  | .iszero => "ISZERO"
  | .ispos => "ISPOS"
  | .isneg => "ISNEG"
  | .cmp => "CMP"
  | .muldiv => "MULDIV"
  | .radd => "RADD"
  | .rsub => "RSUB"
  | .cadd => "CADD"
  | .csub => "CSUB"
  | .sadd => "SADD"
  | .ssub => "SSUB"
  | .rmul => "RMUL"
  | .rdiv => "RDIV"
  | .cmul => "CMUL"
  | .cdiv => "CDIV"
  | .smul => "SMUL"
  | .sabs => "SABS"
  | .spow => "SPOW"
  | .cmuli n => "CMULI." ++ typeName n
  | .cdivi n => "CDIVI." ++ typeName n
  | .smuli n => "SMULI." ++ typeName n
  | .smac n => "SMAC." ++ typeName n
  | .minv => "MINV"
  | .maxv => "MAXV"
  | .fromratio => "FROMRATIO"

/-- The name of a pseudo-instruction (R68). -/
def pseudoMnemonic : Pseudo → String
  | .fromInner => "FROMINNER"
  | .intoInner => "INTOINNER"
  | .default => "DEFAULT"
  | .fromUnits => "FROMUNITS"

/-- The one real command a pseudo-instruction expands to (R68). -/
def expandPseudo : Pseudo → Instr
  | .fromInner => .pass
  | .intoInner => .pass
  | .default => .zero
  | .fromUnits => .fromint

/-- The ten N types (R60). -/
def nTypes : List IntTy :=
  [.uint 8, .uint 16, .uint 32, .uint 64, .uint 128, .sint 8, .sint 16, .sint 32, .sint 64, .sint 128]

/-- The opcodes that take no N type (R57). -/
def plainInstrs : List Instr :=
  [.fromint, .cfromint, .pass, .zero, .one, .iszero, .ispos, .isneg, .cmp, .muldiv, .radd, .rsub,
   .cadd, .csub, .sadd, .ssub, .rmul, .rdiv, .cmul, .cdiv, .smul, .sabs, .spow, .minv, .maxv,
   .fromratio]

/-- The six NT opcodes, at every N type (R61). -/
def typedInstrs : List Instr :=
  nTypes.flatMap fun n => [.fromrat n, .cfromrat n, .cmuli n, .cdivi n, .smuli n, .smac n]

/-- The instruction a mnemonic names, pseudo-instructions included (R67, R68). -/
def lookupMnemonic (name : String) : Option Instr :=
  match (plainInstrs ++ typedInstrs).find? (fun i => mnemonic i == name) with
  | some i => some i
  | none =>
    ([Pseudo.fromInner, .intoInner, .default, .fromUnits].find?
      (fun p => pseudoMnemonic p == name)).map expandPseudo

/-- One operand per port form, in port order: it must fit its form; an ignored port takes none and is
driven to zero (R67). Gives the port's bits and the operands left over. -/
def takeOperand (form : Option IntTy) (ops : List Int) : Option (Port × List Int) :=
  match form with
  | none => some (0, ops)
  | some t =>
    match ops with
    | [] => none
    | v :: rest => if t.Fits v then some (t.place v, rest) else none

/-- The request of an instruction and its operands (R67). -/
def assemble (c : Cfg) (i : Instr) (ops : List Int) : Option Request :=
  match takeOperand (operandForms c i).a ops with
  | none => none
  | some (a, opsB) =>
    match takeOperand (operandForms c i).b opsB with
    | none => none
    | some (b, opsC) =>
      match takeOperand (operandForms c i).c opsC with
      | some (p, []) => some ⟨encode i, a, b, p⟩
      | _ => none

/-- The value of a digit, decimal or hexadecimal. -/
def digitValue (ch : Char) : Option Nat :=
  if '0' ≤ ch ∧ ch ≤ '9' then some (ch.toNat - '0'.toNat)
  else if 'a' ≤ ch ∧ ch ≤ 'f' then some (ch.toNat - 'a'.toNat + 10)
  else if 'A' ≤ ch ∧ ch ≤ 'F' then some (ch.toNat - 'A'.toNat + 10)
  else none

/-- Digits in a base, most significant first, onto the number read so far. -/
def readDigits (base : Nat) : List Char → Nat → Option Nat
  | [], acc => some acc
  | ch :: rest, acc =>
    match digitValue ch with
    | some d => if d < base then readDigits base rest (acc * base + d) else none
    | none => none

/-- A literal without its sign: decimal or `0x` hexadecimal, at least one digit (R67). -/
def readMagnitude : List Char → Option Nat
  | [] => none
  | ['0', 'x'] => none
  | '0' :: 'x' :: ds => readDigits 16 ds 0
  | ds => readDigits 10 ds 0

/-- An integer literal, optionally with a leading `-` (R67). -/
def readLiteral : List Char → Option Int
  | '-' :: ds => (readMagnitude ds).map (fun m => -(m : Int))
  | ds => (readMagnitude ds).map (fun m => (m : Int))

/-- The pieces of a text between commas. -/
def splitCommas : List Char → List (List Char)
  | [] => [[]]
  | ch :: rest =>
    if ch = ',' then [] :: splitCommas rest
    else
      match splitCommas rest with
      | [] => [[ch]]
      | piece :: pieces => (ch :: piece) :: pieces

/-- A text without the blanks at its ends. -/
def trimBlanks (cs : List Char) : List Char :=
  (((cs.dropWhile (· == ' ')).reverse).dropWhile (· == ' ')).reverse

/-- The request a line of assembler text stands for (R67). -/
def assembleLine (c : Cfg) (line : String) : Option Request :=
  let cs := trimBlanks line.toList
  let name := cs.takeWhile (· != ' ')
  let rest := trimBlanks (cs.dropWhile (· != ' '))
  match lookupMnemonic (String.ofList name) with
  | none => none
  | some i =>
    if rest = [] then assemble c i []
    else
      match (splitCommas rest).mapM (fun p => readLiteral (trimBlanks p)) with
      | some ops => assemble c i ops
      | none => none

end Sys2Proof.Machine
end

