-- ==== Sys2Proof/Safety.lean ====
section
/-! DEFINITION. What a safe run is. The unit reports a fault and goes on; the fault is a failure of the
requester's run (60_exceptions.md R273, 10_state.md R31, 93_implementation_defined.md I1, I8, I10).
A claim about a program that uses the FXU is made of runs that are safe in this sense (log 10). -/

namespace Sys2Proof.Machine

/-- FAULT_OVF, FAULT_DIV0 and ILLEGAL end the requester's run as a failure; NONE and the clamps are
ordinary results (60_exceptions.md R273). -/
def Response.failsRun (p : Response) : Bool :=
  match p.status with
  | .ok => false
  | .none => false
  | .faultOvf => true
  | .faultDiv0 => true
  | .illegal => true

/-- The response pending in a state, if any, is no failure. -/
def State.safe (s : State) : Bool :=
  match s.response with
  | some p => !p.failsRun
  | none => true

/-- A run of k steps that is never refused and shows no failing response on its way. -/
def safeRun : Nat → State → Bool
  | 0, s => s.safe
  | k + 1, s =>
    s.safe &&
      match step s with
      | .next t => safeRun k t
      | .fault _ => false
      | .refused _ => false

/-- The requester's duty for an opcode: the caller-asserted safe range of the raw operators and of
FROMRAT (10_state.md R31; 42_add_sub.md R151, R152; 43_mul_div.md R171, R172; 40_construction.md R103).
The other opcodes ask nothing. -/
def dutyMet (i : Instr) (s : State) : Prop :=
  match i with
  | .radd => s.cfg.inner.Fits (s.innerA + s.innerB)
  | .rsub => s.cfg.inner.Fits (s.innerA - s.innerB)
  | .rmul => s.cfg.inner.Fits (s.innerA * s.innerB)
  | .rdiv =>
    s.innerB ≠ 0 ∧ s.cfg.inner.Fits (s.innerA * s.cfg.scale) ∧
      ¬ (s.innerA * s.cfg.scale = s.cfg.inner.min ∧ s.innerB = -1)
  | .fromrat n =>
    s.innerC ≠ 0 ∧ s.cfg.inner.Fits (s.cfg.inner.sat (s.typedB n) * s.cfg.scale) ∧
      ¬ (s.cfg.inner.sat (s.typedB n) * s.cfg.scale = s.cfg.inner.min ∧ s.innerC = -1)
  | .fromint => True
  | .cfromint => True
  | .cfromrat _ => True
  | .pass => True
  | .zero => True
  | .one => True
  | .iszero => True
  | .ispos => True
  | .isneg => True
  | .cmp => True
  | .muldiv => True
  | .cadd => True
  | .csub => True
  | .sadd => True
  | .ssub => True
  | .cmul => True
  | .cdiv => True
  | .smul => True
  | .sabs => True
  | .spow => True
  | .cmuli _ => True
  | .cdivi _ => True
  | .smuli _ => True
  | .smac _ => True
  | .minv => True
  | .maxv => True
  | .fromratio => True

end Sys2Proof.Machine
end

