-- ==== Sys2Proof/Certificates/Slice0/Obligations.lean ====
section
/-! DEFINITION. The statements for the provers, from the numbered rules of spec/. Each is about every
state and every valid configuration, not about a run from reset. Instruction results are equations
`exec i s = .next t` with t written out, so each is also a completion statement and a frame: t is s
with the response given and nothing in flight, and every other field as in s. -/

open Sys2Proof Sys2Proof.Machine

namespace Sys2Proof

/-- The request `q` is in flight on a unit with a valid configuration. -/
def Ready (s : State) (q : Request) : Prop := s.cfg.Valid ∧ ∃ n, s.inFlight = some ⟨q, n⟩

/-- The request `q` is in flight, due at this step, on a valid unit that is not being reset. -/
def Due (s : State) (q : Request) : Prop :=
  s.cfg.Valid ∧ s.rst = false ∧ ∃ n, n ≤ 1 ∧ s.inFlight = some ⟨q, n⟩

/-- `s` after the response `(st, r)`, nothing else changed. -/
def given (s : State) (st : Status) (r : Port) : State :=
  { s with inFlight := none, response := some ⟨st, r⟩ }

/-- The OP values that take no N type (30_encoding.md R57). -/
def plainOps : List Nat :=
  [0x01, 0x02, 0x05, 0x06, 0x07, 0x08, 0x09, 0x0A, 0x0B, 0x10, 0x11, 0x12, 0x13, 0x14, 0x15, 0x16,
   0x18, 0x19, 0x1A, 0x1B, 0x1C, 0x1D, 0x1E, 0x28, 0x29, 0x2A]

/-- The OP values that take an N type (30_encoding.md R61). -/
def typedOps : List Nat := [0x03, 0x04, 0x20, 0x21, 0x22, 0x24]

/-- A reserved OP value (30_encoding.md R58). -/
def ReservedOp (op : Nat) : Prop :=
  op = 0x00 ∨ (0x0C ≤ op ∧ op ≤ 0x0F) ∨ op = 0x17 ∨ op = 0x1F ∨ op = 0x23 ∨
    (0x25 ≤ op ∧ op ≤ 0x27) ∨ (0x2B ≤ op ∧ op ≤ 0x3F)

/-- `(NT << 6) | OP`, the command word of an opcode that takes an N type. -/
def typedWord (n : IntTy) (op : Cmd) : Cmd := ((encodeNType n).setWidth 16 <<< 6) ||| op

/-- `trunc_div(x*y, DIV)`. -/
def mulQuot (c : Cfg) (x y : Int) : Int := (x * y).tdiv c.scale

/-- `trunc_div(x*DIV, y)`. -/
def divQuot (c : Cfg) (x y : Int) : Int := (x * c.scale).tdiv y

/-- The state of SPOW's loop after `k` bits of `e`, least significant first: (result, acc)
(44_saturating.md R193), with SMUL written as the saturated truncated product (R191). -/
def powState (c : Cfg) (x : Int) (e : Nat) : Nat → Int × Int
  | 0 => (c.scale, x)
  | k + 1 =>
    let r := (powState c x e k).1
    let a := (powState c x e k).2
    (if e.testBit k then c.inner.sat (mulQuot c r a) else r, c.inner.sat (mulQuot c a a))

/-- CMULI succeeds: o narrows into I, and the truncated product fits I and N (R211). -/
def MulIntFits (c : Cfg) (n : IntTy) (x o : Int) : Prop :=
  c.inner.Fits o ∧ c.inner.Fits (mulQuot c x o) ∧ n.Fits (mulQuot c x o)

/-- The draw case of SMULI: x = 0 and o does not fit I (45_cross_width.md R214). -/
def DrawCase (c : Cfg) (q : Request) : Prop :=
  ∃ n, decode q.cmd = .ok (.smuli n) ∧ c.inner.read q.a = 0 ∧ ¬ c.inner.Fits (n.read q.b)

/-- Two ports agree in the bits an operand form reads (30_encoding.md R65). -/
def AgreeAt (form : Option IntTy) (p p' : Port) : Prop :=
  match form with
  | some t => p.setWidth t.width = p'.setWidth t.width
  | none => True

/-- The values the assembled ports carry at the forms of the opcode, in port order. -/
def readBack (c : Cfg) (i : Instr) (q : Request) : List Int :=
  [((operandForms c i).a, q.a), ((operandForms c i).b, q.b), ((operandForms c i).c, q.c)].filterMap
    fun e => e.1.map fun t => t.read e.2

/-- The protocol invariant. While a request is in flight at least one step is left (00_scope.md R9) and no
response is pending: that no earlier response is pending beside it is the model's choice (log 6:
acceptance withdraws it), no rule of the spec. A response that is not OK has R = 0 (10_state.md R27). -/
def ProtocolInv (s : State) : Prop :=
  (∀ f, s.inFlight = some f → 1 ≤ f.left ∧ s.response = none) ∧
  (∀ p, s.response = some p → p.status ≠ .ok → p.r = 0)

end Sys2Proof

/-! ### Encoding -/

/-- 30_encoding.md R69: the worked encodings, and its three ILLEGAL words with their reasons. -/
def Obligations.WorkedEncodings : Prop :=
  decode 0x0001 = .ok .fromint ∧ decode 0x0303 = .ok (.fromrat (.sint 64)) ∧
  decode 0x00C4 = .ok (.cfromrat (.uint 32)) ∧ decode 0x0010 = .ok .muldiv ∧
  decode 0x001E = .ok .spow ∧ decode 0x0164 = .ok (.smac (.uint 128)) ∧
  decode 0x02E1 = .ok (.cdivi (.sint 32)) ∧ decode 0x041A = .error .reservedBits ∧
  decode 0x011A = .error .ntypeNotTaken ∧ decode 0x0022 = .error .reservedNType

/-- 30_encoding.md R55: the fields of a command word, as arithmetic on its number. -/
def Obligations.CommandFields : Prop :=
  ∀ w : Cmd, w.op.toNat = w.toNat % 64 ∧ w.nt.toNat = w.toNat / 64 % 16 ∧
    w.rsv.toNat = w.toNat / 1024

/-- 30_encoding.md R55, R57, R60: decoding the encoding of a well-formed instruction gives it back. -/
def Obligations.DecodeEncode : Prop :=
  ∀ i : Instr, i.wellFormed = true → decode (encode i) = .ok i

/-- 30_encoding.md R56, R63: a word that decodes is the encoding of what it decodes to, which is well
formed; so no two words decode to one instruction. -/
def Obligations.EncodeDecode : Prop :=
  ∀ (w : Cmd) (i : Instr), decode w = .ok i → i.wellFormed = true ∧ encode i = w

/-- 30_encoding.md R63 with R57 to R62: when decoding fails, for which reason, and that nothing else
makes it fail. -/
def Obligations.IllegalReasons : Prop :=
  ∀ w : Cmd,
    (decode w = .error .reservedBits ↔ w.toNat / 1024 ≠ 0) ∧
    (decode w = .error .reservedOpcode ↔ w.toNat / 1024 = 0 ∧ ReservedOp (w.toNat % 64)) ∧
    (decode w = .error .reservedNType ↔
      w.toNat / 1024 = 0 ∧ w.toNat % 64 ∈ typedOps ∧ w.toNat / 64 % 8 ∈ [0, 6, 7]) ∧
    (decode w = .error .ntypeNotTaken ↔
      w.toNat / 1024 = 0 ∧ w.toNat % 64 ∈ plainOps ∧ w.toNat / 64 % 16 ≠ 0) ∧
    ((∃ i, decode w = .ok i) ↔
      w.toNat / 1024 = 0 ∧
        ((w.toNat % 64 ∈ plainOps ∧ w.toNat / 64 % 16 = 0) ∨
         (w.toNat % 64 ∈ typedOps ∧ w.toNat / 64 % 8 ∈ [1, 2, 3, 4, 5])))

/-- 30_encoding.md R58, R59, R61, R62: a malformed command is answered `(ILLEGAL, 0)` and nothing
else changes. -/
def Obligations.MalformedCommandIsIllegal : Prop :=
  ∀ s q, Due s q →
    (q.cmd.toNat / 1024 ≠ 0 ∨ ReservedOp (q.cmd.toNat % 64) ∨
      (q.cmd.toNat % 64 ∈ typedOps ∧ q.cmd.toNat / 64 % 8 ∈ [0, 6, 7]) ∨
      (q.cmd.toNat % 64 ∈ plainOps ∧ q.cmd.toNat / 64 % 16 ≠ 0)) →
    step s = .next (given s .illegal 0)

/-- 30_encoding.md R67: an assembled request has the instruction's command word, its ports carry the
operands at the forms of R66 in port order, and ignored ports are driven to zero. -/
def Obligations.AssembledOperandsReadBack : Prop :=
  ∀ (c : Cfg) (i : Instr) (ops : List Int) (q : Request), c.Valid → i.wellFormed = true →
    assemble c i ops = some q →
    q.cmd = encode i ∧ readBack c i q = ops ∧
      ((operandForms c i).a = none → q.a = 0) ∧ ((operandForms c i).b = none → q.b = 0) ∧
      ((operandForms c i).c = none → q.c = 0)

/-! ### The step -/

/-- A step runs the decoded instruction: where the command in flight is due and decodes, the step is
its meaning and nothing around it (30_encoding.md R63). -/
def Obligations.StepRunsDecoded : Prop :=
  ∀ s q i, Due s q → decode q.cmd = .ok i → step s = exec i s

/-- The same through `withFetchWord`, the operands being those driven now. -/
def Obligations.FetchWordRunsNext : Prop :=
  ∀ (s : State) (w : Nat) (i : Instr), s.cfg.Valid → decodeTableWord 16 w = some i →
    step (s.withFetchWord 16 w) = exec i (s.withFetchWord 16 w) ∧
      (s.withFetchWord 16 w).sampled = ⟨encode i, s.driven.a, s.driven.b, s.driven.c⟩

/-- 70_reset_and_hazards.md R301, R302: out of reset nothing is in flight and no response is pending,
the unit gives no response while nothing is presented, and it accepts what is presented. That the very
next step accepts it is the model's choice (log 8). -/
def Obligations.ResetState : Prop :=
  State.reset.inFlight = none ∧ State.reset.response = none ∧ State.reset.rst = false ∧
  step State.reset = .next State.reset ∧
  ∀ q, ∃ t, step { State.reset with request := some q } = .next t ∧ t.response = none ∧
    ∃ n, 1 ≤ n ∧ t.inFlight = some ⟨q, n⟩

/-- 20_memory.md R44, 00_scope.md R9: an idle unit samples the presented ports when it accepts, and
the response is then LATENCY steps away; nothing presented, nothing happens (70 R301). Where the
presented request and the earlier response go, and that the very next step accepts, is the model's
choice (log 6, log 7, log 8). -/
def Obligations.IdleUnitAccepts : Prop :=
  ∀ s : State, s.cfg.Valid → s.rst = false → s.inFlight = none →
    (∀ q, s.request = some q →
      step s = .next { s with request := none, inFlight := some ⟨q, s.cfg.latencyOf q⟩,
                              response := none }) ∧
    (s.request = none → step s = .next s)

/-- 20_memory.md R43: while a request is in flight no other is accepted; it stays in flight, one step
nearer, or its response is given. -/
def Obligations.OneRequestAtATime : Prop :=
  ∀ (s t : State) (f : Flight), s.rst = false → s.inFlight = some f → step s = .next t →
    t.request = s.request ∧
    ((1 < f.left ∧ t.inFlight = some ⟨f.req, f.left - 1⟩ ∧ t.response = s.response) ∨
     (f.left ≤ 1 ∧ t.inFlight = none ∧ ∃ p, t.response = some p))

/-- 20_memory.md R44: a change of the ports after acceptance does not affect the response, nor
anything else but the ports. On a step with reset applied the statement says as well that the ports
are kept: that is the model's choice (log 9), not R44. -/
def Obligations.PortsAfterAcceptance : Prop :=
  ∀ (s t : State) (f : Flight) (r : Option Request), s.inFlight = some f → step s = .next t →
    step { s with request := r } = .next { t with request := r }

/-- 70_reset_and_hazards.md R302: a reset aborts the request in flight without a response and leaves
the unit in the state of R301, the configuration unaffected (R300). That one step is the whole
reset, and that the ports are kept, is the model's choice (log 9). -/
def Obligations.ResetAborts : Prop :=
  ∀ s : State, s.cfg.Valid → s.rst = true →
    step s = .next { s with rst := false, inFlight := none, response := none }

/-- 70_reset_and_hazards.md R303, with the constraints of 00_scope.md R4, R5, R7 and R9 and the laws of
46_accumulate.md R231 on the listed values of RATIO_MUL: a configuration that breaks one is refused,
every other runs. -/
def Obligations.InvalidConfigurationRefused : Prop :=
  ∀ s : State,
    (step s = .refused .invalidConfiguration ↔
      ¬ ((s.cfg.width = 32 ∨ s.cfg.width = 64 ∨ s.cfg.width = 128) ∧
          (∃ k, s.cfg.div = 10 ^ k) ∧
          s.cfg.scale ≤ s.cfg.inner.max ∧ s.cfg.div - 1 ≤ 2 ^ (s.cfg.width / 2) - 1 ∧
          1 ≤ s.cfg.accuracy ∧ (s.cfg.accuracy : Int) ≤ s.cfg.inner.max ∧
          (∀ e ∈ s.cfg.ratio, e.ty.Fits e.value ∧ (e.parts = 0 → e.value = 0)) ∧
          ∀ e ∈ s.cfg.latency, 1 ≤ e.2)) ∧
    (s.cfg.Valid → ∃ t, step s = .next t)

/-- 00_scope.md R11, 70_reset_and_hazards.md R300: no step changes the configuration. -/
def Obligations.ConfigurationFixed : Prop :=
  ∀ s t : State, step s = .next t → t.cfg = s.cfg

/-- 00_scope.md R9, 70_reset_and_hazards.md R305, R306: a presented request is accepted at once by an
idle unit, no response is pending in the LATENCY - 1 steps after the acceptance, and at the LATENCY-th
the response is given. Two things here are the model's choice and no rule of the spec: that the
acceptance takes the first step and is not counted in LATENCY (log 8), and that an earlier response,
which the idle unit may still hold, is no longer pending after it (log 6). -/
def Obligations.ResponseAfterLatency : Prop :=
  ∀ (s : State) (q : Request), s.cfg.Valid → s.rst = false → s.inFlight = none →
    s.request = some q →
    (∀ k, k < s.cfg.latencyOf q →
      ∃ t : State, Host.Core.run core (1 + k) s = .next t ∧ t.response = none ∧
        t.inFlight = some ⟨q, s.cfg.latencyOf q - k⟩) ∧
    ∃ (t : State) (p : Response), Host.Core.run core (1 + s.cfg.latencyOf q) s = .next t ∧
      t.inFlight = none ∧ t.response = some p

/-- The protocol invariant is kept by every step, from every state that meets it. Its clause that no
response is pending beside a request in flight is the model's choice (log 6). -/
def Obligations.ProtocolInvariantKept : Prop :=
  ∀ s t : State, ProtocolInv s → step s = .next t → ProtocolInv t

/-- The protocol invariant, with its clause that is the model's choice (log 6), holds at reset. -/
def Obligations.ProtocolInvariantAtReset : Prop := ProtocolInv State.reset

/-- 10_state.md R30: the response is a function of the configuration and the request alone, whatever
else the two states hold, but for the draw of SMULI (45_cross_width.md R214). -/
def Obligations.ResponseIsFunctionOfRequest : Prop :=
  ∀ (s s' t t' : State) (q : Request), Due s q → Due s' q → s.cfg = s'.cfg →
    ¬ DrawCase s.cfg q → step s = .next t → step s' = .next t' → t.response = t'.response

/-- 10_state.md R28: bits of a port above the width the opcode reads do not affect the response; R23: nor
do ports it does not read. In the draw case of SMULI the two responses agree because the draw is
a value at the draw count, which is the model's choice (log 4). -/
def Obligations.UnreadBitsIgnored : Prop :=
  ∀ (s s' t t' : State) (q q' : Request), Due s q → Due s' q' → s.cfg = s'.cfg →
    s.draws = s'.draws → q.cmd = q'.cmd →
    (∀ i, decode q.cmd = .ok i → AgreeAt (operandForms s.cfg i).a q.a q'.a ∧
      AgreeAt (operandForms s.cfg i).b q.b q'.b ∧ AgreeAt (operandForms s.cfg i).c q.c q'.c) →
    step s = .next t → step s' = .next t' → t.response = t'.response

/-- 10_state.md R27: bits above the width of the result type are zero, and R is zero unless STATUS is
OK. The result type of FROMRAT and CFROMRAT is the model's choice (log 19). -/
def Obligations.ResultUpperBitsZero : Prop :=
  ∀ (i : Instr) (s t : State) (p : Response), exec i s = .next t → t.response = some p →
    p.r.toNat < 2 ^ (resultType s.cfg i).width ∧ (p.status ≠ .ok → p.r = 0)

/-- 10_state.md R24, 60_exceptions.md R274, 20_memory.md R45: every instruction, whatever its status,
answers with one response and changes nothing else, but that SMULI may take one draw. -/
def Obligations.EveryInstructionAnswers : Prop :=
  ∀ (i : Instr) (s : State), ∃ t p, exec i s = .next t ∧
    t = { s with inFlight := none, response := some p, draws := t.draws } ∧
    (t.draws = s.draws ∨ ((∃ n, i = .smuli n) ∧ t.draws = s.draws + 1))

/-- 60_exceptions.md R271: which statuses each opcode can give. -/
def Obligations.StatusesByOpcode : Prop :=
  ∀ (i : Instr) (s t : State) (p : Response), exec i s = .next t → t.response = some p →
    match i with
    | .radd => p.status ∈ [Status.ok, .faultOvf]
    | .rsub => p.status ∈ [Status.ok, .faultOvf]
    | .rmul => p.status ∈ [Status.ok, .faultOvf]
    | .rdiv => p.status ∈ [Status.ok, .faultOvf, .faultDiv0]
    | .fromrat _ => p.status ∈ [Status.ok, .faultOvf, .faultDiv0]
    | .cfromint => p.status ∈ [Status.ok, .none]
    | .cfromrat _ => p.status ∈ [Status.ok, .none]
    | .muldiv => p.status ∈ [Status.ok, .none]
    | .cadd => p.status ∈ [Status.ok, .none]
    | .csub => p.status ∈ [Status.ok, .none]
    | .cmul => p.status ∈ [Status.ok, .none]
    | .cdiv => p.status ∈ [Status.ok, .none]
    | .cmuli _ => p.status ∈ [Status.ok, .none]
    | .cdivi _ => p.status ∈ [Status.ok, .none]
    | .fromint => p.status = .ok
    | .pass => p.status = .ok
    | .zero => p.status = .ok
    | .one => p.status = .ok
    | .iszero => p.status = .ok
    | .ispos => p.status = .ok
    | .isneg => p.status = .ok
    | .cmp => p.status = .ok
    | .sadd => p.status = .ok
    | .ssub => p.status = .ok
    | .smul => p.status = .ok
    | .sabs => p.status = .ok
    | .spow => p.status = .ok
    | .smuli _ => p.status = .ok
    | .smac _ => p.status = .ok
    | .minv => p.status = .ok
    | .maxv => p.status = .ok
    | .fromratio => p.status = .ok

/-- 60_exceptions.md R272: a zero divisor is reported whatever the product. -/
def Obligations.ZeroDivisorFirst : Prop :=
  ∀ s q, Ready s q →
    (s.cfg.inner.read q.b = 0 → exec .rdiv s = .next (given s .faultDiv0 0)) ∧
    (∀ n, s.cfg.inner.read q.c = 0 → exec (.fromrat n) s = .next (given s .faultDiv0 0))

/-- 10_state.md R31, 60_exceptions.md R273: an instruction's response fails the requester's run
exactly where the requester did not meet its duty. -/
def Obligations.DutyDecidesFailure : Prop :=
  ∀ (i : Instr) (s : State) (q : Request), Ready s q →
    ∃ t p, exec i s = .next t ∧ t.response = some p ∧ (p.failsRun = false ↔ dutyMet i s)

/-! ### Construction, constants, predicates and compare -/

/-- 40_construction.md R101, with the bounds its corner cases give. -/
def Obligations.FromIntegerSaturates : Prop :=
  encode .fromint = 0x0001 ∧
  ∀ s q, Ready s q →
    exec .fromint s = .next (given s .ok (s.cfg.inner.place
      (if s.cfg.inner.read q.a < -((2 ^ (s.cfg.width - 1) / s.cfg.div : Nat) : Int)
       then s.cfg.inner.min
       else if s.cfg.inner.max / s.cfg.scale < s.cfg.inner.read q.a then s.cfg.inner.max
       else s.cfg.inner.read q.a * s.cfg.scale)))

/-- 40_construction.md R102. -/
def Obligations.CheckedFromInteger : Prop :=
  encode .cfromint = 0x0002 ∧
  ∀ s q, Ready s q →
    exec .cfromint s = .next
      (if s.cfg.inner.Fits (s.cfg.inner.read q.a * s.cfg.scale)
       then given s .ok (s.cfg.inner.place (s.cfg.inner.read q.a * s.cfg.scale))
       else given s .none 0)

/-- 40_construction.md R103, its causes as 60_exceptions.md R271 lists them. That the result is of type I
is the model's choice (log 19). -/
def Obligations.FromRationalFaults : Prop :=
  (∀ n, encode (.fromrat n) = typedWord n 0x0003) ∧
  ∀ s q n, Ready s q →
    exec (.fromrat n) s = .next
      (if s.cfg.inner.read q.c = 0 then given s .faultDiv0 0
       else if ¬ s.cfg.inner.Fits (s.cfg.inner.sat (n.read q.b) * s.cfg.scale) then
         given s .faultOvf 0
       else if s.cfg.inner.sat (n.read q.b) * s.cfg.scale = s.cfg.inner.min ∧
           s.cfg.inner.read q.c = -1 then given s .faultOvf 0
       else given s .ok (s.cfg.inner.place
         ((s.cfg.inner.sat (n.read q.b) * s.cfg.scale).tdiv (s.cfg.inner.read q.c))))

/-- 40_construction.md R104. That the result is of type I is the model's choice (log 19). -/
def Obligations.CheckedFromRational : Prop :=
  (∀ n, encode (.cfromrat n) = typedWord n 0x0004) ∧
  ∀ s q n, Ready s q →
    exec (.cfromrat n) s = .next
      (if s.cfg.inner.read q.c = 0 ∨ ¬ s.cfg.inner.Fits (n.read q.b) ∨
          ¬ s.cfg.inner.Fits (n.read q.b * s.cfg.scale) ∨
          (n.read q.b * s.cfg.scale = s.cfg.inner.min ∧ s.cfg.inner.read q.c = -1)
       then given s .none 0
       else given s .ok (s.cfg.inner.place
         ((n.read q.b * s.cfg.scale).tdiv (s.cfg.inner.read q.c))))

/-- 40_construction.md R105: every W-bit pattern passes unchanged, the bits above W cleared. -/
def Obligations.PassKeepsPattern : Prop :=
  encode .pass = 0x0005 ∧ expandPseudo .fromInner = .pass ∧ expandPseudo .intoInner = .pass ∧
  ∀ s q, Ready s q →
    exec .pass s = .next (given s .ok ((q.a.setWidth s.cfg.width).setWidth 128))

/-- 40_construction.md R106, R107: the constants; ONE equals `FROMINT 1` in every configuration. -/
def Obligations.ConstantsZeroOne : Prop :=
  encode .zero = 0x0006 ∧ encode .one = 0x0007 ∧ expandPseudo .default = .zero ∧
  ∀ s q, Ready s q →
    exec .zero s = .next (given s .ok 0) ∧
    exec .one s = .next (given s .ok (BitVec.ofNat 128 s.cfg.div)) ∧
    (s.cfg.inner.read q.a = 1 → exec .fromint s = exec .one s)

/-- 40_construction.md R108 to R110: the predicates give 1 or 0 at R[0]. -/
def Obligations.Predicates : Prop :=
  encode .iszero = 0x0008 ∧ encode .ispos = 0x0009 ∧ encode .isneg = 0x000A ∧
  ∀ s q, Ready s q →
    exec .iszero s = .next (given s .ok (if s.cfg.inner.read q.a = 0 then 1 else 0)) ∧
    exec .ispos s = .next (given s .ok (if 0 < s.cfg.inner.read q.a then 1 else 0)) ∧
    exec .isneg s = .next (given s .ok (if s.cfg.inner.read q.a < 0 then 1 else 0))

/-- 40_construction.md R111: -1 is all ones in `R[W-1:0]`, zeros above. -/
def Obligations.CompareThreeValued : Prop :=
  encode .cmp = 0x000B ∧
  ∀ s q, Ready s q →
    exec .cmp s = .next (given s .ok
      (if s.cfg.inner.read q.a < s.cfg.inner.read q.b then BitVec.ofNat 128 (2 ^ s.cfg.width - 1)
       else if s.cfg.inner.read q.a = s.cfg.inner.read q.b then 0 else 1))

/-! ### The primitive, add and subtract, multiply and divide -/

/-- 41_widened_primitive.md R130, R131. -/
def Obligations.MulDivFloor : Prop :=
  encode .muldiv = 0x0010 ∧
  ∀ s q, Ready s q →
    exec .muldiv s = .next
      (if q.c.toNat = 0 ∨ 2 ^ 128 ≤ q.a.toNat * q.b.toNat / q.c.toNat then given s .none 0
       else given s .ok (BitVec.ofNat 128 (q.a.toNat * q.b.toNat / q.c.toNat)))

/-- 42_add_sub.md R151, R152. -/
def Obligations.RawAddSub : Prop :=
  encode .radd = 0x0011 ∧ encode .rsub = 0x0012 ∧
  ∀ s q, Ready s q →
    exec .radd s = .next
      (if s.cfg.inner.Fits (s.cfg.inner.read q.a + s.cfg.inner.read q.b)
       then given s .ok (s.cfg.inner.place (s.cfg.inner.read q.a + s.cfg.inner.read q.b))
       else given s .faultOvf 0) ∧
    exec .rsub s = .next
      (if s.cfg.inner.Fits (s.cfg.inner.read q.a - s.cfg.inner.read q.b)
       then given s .ok (s.cfg.inner.place (s.cfg.inner.read q.a - s.cfg.inner.read q.b))
       else given s .faultOvf 0)

/-- 42_add_sub.md R153, R154. -/
def Obligations.CheckedAddSub : Prop :=
  encode .cadd = 0x0013 ∧ encode .csub = 0x0014 ∧
  ∀ s q, Ready s q →
    exec .cadd s = .next
      (if s.cfg.inner.Fits (s.cfg.inner.read q.a + s.cfg.inner.read q.b)
       then given s .ok (s.cfg.inner.place (s.cfg.inner.read q.a + s.cfg.inner.read q.b))
       else given s .none 0) ∧
    exec .csub s = .next
      (if s.cfg.inner.Fits (s.cfg.inner.read q.a - s.cfg.inner.read q.b)
       then given s .ok (s.cfg.inner.place (s.cfg.inner.read q.a - s.cfg.inner.read q.b))
       else given s .none 0)

/-- 42_add_sub.md R155, R156: the bound is chosen by the sign of the exact result. -/
def Obligations.SaturatingAddSub : Prop :=
  encode .sadd = 0x0015 ∧ encode .ssub = 0x0016 ∧
  ∀ s q, Ready s q →
    exec .sadd s = .next (given s .ok (s.cfg.inner.place
      (if s.cfg.inner.Fits (s.cfg.inner.read q.a + s.cfg.inner.read q.b)
       then s.cfg.inner.read q.a + s.cfg.inner.read q.b
       else if 0 < s.cfg.inner.read q.a + s.cfg.inner.read q.b then s.cfg.inner.max
       else s.cfg.inner.min))) ∧
    exec .ssub s = .next (given s .ok (s.cfg.inner.place
      (if s.cfg.inner.Fits (s.cfg.inner.read q.a - s.cfg.inner.read q.b)
       then s.cfg.inner.read q.a - s.cfg.inner.read q.b
       else if 0 < s.cfg.inner.read q.a - s.cfg.inner.read q.b then s.cfg.inner.max
       else s.cfg.inner.min)))

/-- 42_add_sub.md R150: where the exact result fits, the three variants give the same response. -/
def Obligations.AddSubVariantsAgree : Prop :=
  ∀ s q, Ready s q →
    (s.cfg.inner.Fits (s.cfg.inner.read q.a + s.cfg.inner.read q.b) →
      exec .radd s = exec .cadd s ∧ exec .cadd s = exec .sadd s) ∧
    (s.cfg.inner.Fits (s.cfg.inner.read q.a - s.cfg.inner.read q.b) →
      exec .rsub s = exec .csub s ∧ exec .csub s = exec .ssub s)

/-- 43_mul_div.md R171. -/
def Obligations.RawMultiply : Prop :=
  encode .rmul = 0x0018 ∧
  ∀ s q, Ready s q →
    exec .rmul s = .next
      (if s.cfg.inner.Fits (s.cfg.inner.read q.a * s.cfg.inner.read q.b)
       then given s .ok (s.cfg.inner.place
         (mulQuot s.cfg (s.cfg.inner.read q.a) (s.cfg.inner.read q.b)))
       else given s .faultOvf 0)

/-- 43_mul_div.md R172. -/
def Obligations.RawDivide : Prop :=
  encode .rdiv = 0x0019 ∧
  ∀ s q, Ready s q →
    exec .rdiv s = .next
      (if s.cfg.inner.read q.b = 0 then given s .faultDiv0 0
       else if ¬ s.cfg.inner.Fits (s.cfg.inner.read q.a * s.cfg.scale) then given s .faultOvf 0
       else if s.cfg.inner.read q.a * s.cfg.scale = s.cfg.inner.min ∧ s.cfg.inner.read q.b = -1 then
         given s .faultOvf 0
       else given s .ok (s.cfg.inner.place
         (divQuot s.cfg (s.cfg.inner.read q.a) (s.cfg.inner.read q.b))))

/-- 43_mul_div.md R170, R173: the exact truncated value whenever it fits, NONE otherwise. -/
def Obligations.CheckedMultiply : Prop :=
  encode .cmul = 0x001A ∧
  ∀ s q, Ready s q →
    exec .cmul s = .next
      (if s.cfg.inner.Fits (mulQuot s.cfg (s.cfg.inner.read q.a) (s.cfg.inner.read q.b))
       then given s .ok (s.cfg.inner.place
         (mulQuot s.cfg (s.cfg.inner.read q.a) (s.cfg.inner.read q.b)))
       else given s .none 0)

/-- 43_mul_div.md R170, R174: NONE exactly when y = 0 or the truncated quotient does not fit. -/
def Obligations.CheckedDivide : Prop :=
  encode .cdiv = 0x001B ∧
  ∀ s q, Ready s q →
    exec .cdiv s = .next
      (if s.cfg.inner.read q.b ≠ 0 ∧
          s.cfg.inner.Fits (divQuot s.cfg (s.cfg.inner.read q.a) (s.cfg.inner.read q.b))
       then given s .ok (s.cfg.inner.place
         (divQuot s.cfg (s.cfg.inner.read q.a) (s.cfg.inner.read q.b)))
       else given s .none 0)

/-- 43_mul_div.md R170: the raw variants give the checked value when no W-bit step overflows. -/
def Obligations.RawAgreesWithChecked : Prop :=
  ∀ s q, Ready s q →
    (s.cfg.inner.Fits (s.cfg.inner.read q.a * s.cfg.inner.read q.b) →
      exec .rmul s = exec .cmul s) ∧
    (s.cfg.inner.read q.b ≠ 0 → s.cfg.inner.Fits (s.cfg.inner.read q.a * s.cfg.scale) →
      s.cfg.inner.Fits (divQuot s.cfg (s.cfg.inner.read q.a) (s.cfg.inner.read q.b)) →
      exec .rdiv s = exec .cdiv s)

/-! ### Saturating clamp logic -/

/-- 44_saturating.md R190, R191: CMUL's value where it has one, else the bound by the sign of the
product. -/
def Obligations.SaturatingMultiply : Prop :=
  encode .smul = 0x001C ∧
  ∀ s q, Ready s q →
    exec .smul s = .next (given s .ok (s.cfg.inner.place
      (if s.cfg.inner.Fits (mulQuot s.cfg (s.cfg.inner.read q.a) (s.cfg.inner.read q.b))
       then mulQuot s.cfg (s.cfg.inner.read q.a) (s.cfg.inner.read q.b)
       else if 0 < s.cfg.inner.read q.a * s.cfg.inner.read q.b then s.cfg.inner.max
       else s.cfg.inner.min)))

/-- 44_saturating.md R192. -/
def Obligations.SaturatingAbs : Prop :=
  encode .sabs = 0x001D ∧
  ∀ s q, Ready s q →
    exec .sabs s = .next (given s .ok (s.cfg.inner.place
      (if s.cfg.inner.read q.a = s.cfg.inner.min then s.cfg.inner.max
       else ((s.cfg.inner.read q.a).natAbs : Int))))

/-- 44_saturating.md R193: 64 rounds of multiply, then square, give SPOW's value (rounds above the
highest set bit change nothing). -/
def Obligations.SaturatingPower : Prop :=
  encode .spow = 0x001E ∧
  ∀ s q, Ready s q →
    exec .spow s = .next (given s .ok (s.cfg.inner.place
      (powState s.cfg (s.cfg.inner.read q.a) (q.b.toNat % 2 ^ 64) 64).1))

/-- 44_saturating.md R193, its corner cases: exponent 0, base 0, base ONE and base -ONE. -/
def Obligations.PowerCorners : Prop :=
  ∀ s q, Ready s q →
    (q.b.toNat % 2 ^ 64 = 0 → exec .spow s = exec .one s) ∧
    (s.cfg.inner.read q.a = 0 → q.b.toNat % 2 ^ 64 ≠ 0 → exec .spow s = exec .zero s) ∧
    (s.cfg.inner.read q.a = s.cfg.scale → exec .spow s = exec .one s) ∧
    (s.cfg.inner.read q.a = -s.cfg.scale →
      exec .spow s = .next (given s .ok (s.cfg.inner.place
        (if q.b.toNat % 2 = 0 then s.cfg.scale else -s.cfg.scale))))

/-! ### Cross-width and accumulate -/

/-- 45_cross_width.md R211. -/
def Obligations.CheckedMultiplyInteger : Prop :=
  (∀ n, encode (.cmuli n) = typedWord n 0x0020) ∧
  ∀ s q n, Ready s q →
    (MulIntFits s.cfg n (s.cfg.inner.read q.a) (n.read q.b) →
      exec (.cmuli n) s = .next (given s .ok (n.place
        (mulQuot s.cfg (s.cfg.inner.read q.a) (n.read q.b))))) ∧
    (¬ MulIntFits s.cfg n (s.cfg.inner.read q.a) (n.read q.b) →
      exec (.cmuli n) s = .next (given s .none 0))

/-- 45_cross_width.md R212: one truncating division by o*DIV, and when it fails. -/
def Obligations.CheckedDivideInteger : Prop :=
  (∀ n, encode (.cdivi n) = typedWord n 0x0021) ∧
  ∀ s q n, Ready s q →
    exec (.cdivi n) s = .next
      (if s.cfg.inner.Fits (n.read q.b) ∧ n.read q.b ≠ 0 ∧
          ¬ (s.cfg.inner.read q.a = s.cfg.inner.min ∧ n.read q.b = -1) ∧
          n.Fits ((s.cfg.inner.read q.a).tdiv (n.read q.b * s.cfg.scale))
       then given s .ok (n.place ((s.cfg.inner.read q.a).tdiv (n.read q.b * s.cfg.scale)))
       else given s .none 0)

/-- 45_cross_width.md R213: CMULI's value, else the bound of N by the sign of o*x, else, at sign zero,
some value of type N. That the draw count then advances by one is the model's choice (log 4). -/
def Obligations.SaturatingMultiplyInteger : Prop :=
  (∀ n, encode (.smuli n) = typedWord n 0x0022) ∧
  ∀ s q n, Ready s q →
    (MulIntFits s.cfg n (s.cfg.inner.read q.a) (n.read q.b) →
      exec (.smuli n) s = .next (given s .ok (n.place
        (mulQuot s.cfg (s.cfg.inner.read q.a) (n.read q.b))))) ∧
    (¬ MulIntFits s.cfg n (s.cfg.inner.read q.a) (n.read q.b) →
      (0 < n.read q.b * s.cfg.inner.read q.a →
        exec (.smuli n) s = .next (given s .ok (n.place n.max))) ∧
      (n.read q.b * s.cfg.inner.read q.a < 0 →
        exec (.smuli n) s = .next (given s .ok (n.place n.min))) ∧
      (n.read q.b * s.cfg.inner.read q.a = 0 →
        ∃ v, n.Fits v ∧
          exec (.smuli n) s = .next (given { s with draws := s.draws + 1 } .ok (n.place v))))

/-- 45_cross_width.md R214: the sign-zero failure happens only when x = 0 and o does not fit I, and
then the status is OK with some value of type N, which nothing constrains. That the draw count then
advances by one is the model's choice (log 4). -/
def Obligations.SaturatingMultiplyIntegerDraw : Prop :=
  ∀ s q n, Ready s q →
    ((¬ MulIntFits s.cfg n (s.cfg.inner.read q.a) (n.read q.b) ∧
        n.read q.b * s.cfg.inner.read q.a = 0) ↔
      (s.cfg.inner.read q.a = 0 ∧ ¬ s.cfg.inner.Fits (n.read q.b))) ∧
    (s.cfg.inner.read q.a = 0 → ¬ s.cfg.inner.Fits (n.read q.b) →
      ∃ v, n.Fits v ∧
        exec (.smuli n) s = .next (given { s with draws := s.draws + 1 } .ok (n.place v)))

/-- 46_accumulate.md R231, L1 and L2: RATIO_MUL gives a value of type N for every argument, and 0 for
f = 0. Nothing else is known of it (log 3). -/
def Obligations.RatioMulLaws : Prop :=
  ∀ (c : Cfg) (f : Nat) (y : Int) (n : IntTy), c.Valid → n.isNType = true →
    n.Fits (ratioMul c f y n) ∧ ratioMul c 0 y n = 0

/-- 46_accumulate.md R232, with RATIO_MUL the parameter of R231 (log 3). -/
def Obligations.MultiplyAccumulate : Prop :=
  (∀ n, encode (.smac n) = typedWord n 0x0024) ∧
  ∀ s q n, Ready s q →
    ∃ excess, excess = n.sat
        (n.sat (n.read q.b * n.sat (((s.cfg.inner.read q.a).natAbs / s.cfg.div : Nat) : Int)) +
          ratioMul s.cfg ((s.cfg.inner.read q.a).natAbs % s.cfg.div) (n.read q.b) n) ∧
      exec (.smac n) s = .next (given s .ok (n.place
        (if s.cfg.inner.read q.a < 0 then n.sat (n.read q.b - excess)
         else n.sat (n.read q.b + excess))))

/-- 46_accumulate.md R233: `SMAC(ZERO, y) = y` and `SMAC(ONE, y) = sat_N(y + y)`. -/
def Obligations.AccumulateIdentities : Prop :=
  ∀ s q n, Ready s q → n.isNType = true →
    (s.cfg.inner.read q.a = 0 →
      exec (.smac n) s = .next (given s .ok (n.place (n.read q.b)))) ∧
    (s.cfg.inner.read q.a = s.cfg.scale →
      exec (.smac n) s = .next (given s .ok (n.place (n.sat (n.read q.b + n.read q.b)))))

/-- 46_accumulate.md R235: with ACCURACY = DIV and a RATIO_MUL that is exact on this argument, and no
intermediate saturation, SMAC computes `int + self*int`, saturated in N. -/
def Obligations.AccumulatePurpose : Prop :=
  ∀ (s : State) (q : Request) (n : IntTy) (x y : Int) (nat frac : Nat), Ready s q →
    s.cfg.accuracy = s.cfg.div → x = s.cfg.inner.read q.a → y = n.read q.b →
    nat = x.natAbs / s.cfg.div → frac = x.natAbs % s.cfg.div →
    s.cfg.scale ∣ x * y → ratioMul s.cfg frac y n = (frac * y).tdiv s.cfg.accuracy →
    n.Fits (nat : Int) → n.Fits (y * nat) → n.Fits ((x.natAbs * y).tdiv s.cfg.scale) →
    exec (.smac n) s = .next (given s .ok (n.place (n.sat (y + (x * y).tdiv s.cfg.scale))))

/-! ### Bounds and ratio conversion -/

/-- 47_bounds_conversion.md R250, R251: the bounds, as bit patterns. -/
def Obligations.BoundsPatterns : Prop :=
  encode .minv = 0x0028 ∧ encode .maxv = 0x0029 ∧
  ∀ s q, Ready s q →
    exec .minv s = .next (given s .ok (BitVec.ofNat 128 (2 ^ (s.cfg.width - 1)))) ∧
    exec .maxv s = .next (given s .ok (BitVec.ofNat 128 (2 ^ (s.cfg.width - 1) - 1)))

/-- 47_bounds_conversion.md R252. -/
def Obligations.FromRatio : Prop :=
  encode .fromratio = 0x002A ∧
  ∀ (s : State) (q : Request) (f : Nat), Ready s q → f = q.b.toNat % 2 ^ (s.cfg.width / 2) →
    exec .fromratio s = .next (given s .ok
      (if f * s.cfg.div < 2 ^ (s.cfg.width - 1)
       then BitVec.ofNat 128 (f * s.cfg.div / s.cfg.accuracy)
       else BitVec.ofNat 128 (2 ^ (s.cfg.width - 1) - 1)))
end

