-- ==== Sys2Proof/Laws/Numbers.lean ====
section
/-! SUPPORT. Laws of the integer types and of truncating division. -/

namespace Sys2Proof

theorem two_pow_pos (n : Nat) : 0 < 2 ^ n := Nat.pow_pos (by decide)

theorem min_le_max (t : IntTy) : t.min ≤ t.max := by
  have h1 := two_pow_pos (t.width - 1)
  have h2 := two_pow_pos t.width
  unfold IntTy.min IntTy.max
  split <;> omega

/-- Zero fits every type. -/
theorem zero_fits (t : IntTy) : t.Fits 0 := by
  have h1 := two_pow_pos (t.width - 1)
  have h2 := two_pow_pos t.width
  unfold IntTy.Fits IntTy.min IntTy.max
  split <;> omega

/-- Everything `sat` can do: it answers a value of the type, and leaves such values alone. -/
theorem sat_fits (t : IntTy) (v : Int) : t.Fits (t.sat v) := by
  have := min_le_max t
  unfold IntTy.sat IntTy.Fits
  split
  · omega
  · split <;> omega

theorem sat_of_fits {t : IntTy} {v : Int} (h : t.Fits v) : t.sat v = v := by
  unfold IntTy.sat IntTy.Fits at *
  split
  · omega
  · split <;> omega

theorem sat_of_lt {t : IntTy} {v : Int} (h : v < t.min) : t.sat v = t.min := by
  simp [IntTy.sat, h]

theorem sat_of_gt {t : IntTy} {v : Int} (h : t.max < v) : t.sat v = t.max := by
  have := min_le_max t
  have h' : ¬ v < t.min := by omega
  simp [IntTy.sat, h, h']

/-- A value read from a port fits its type. -/
theorem read_fits (t : IntTy) (p : Port) : t.Fits (t.read p) := by
  obtain ⟨sg, w⟩ := t
  cases sg
  · have h := (p.setWidth w).isLt
    simp only [IntTy.Fits, IntTy.read, IntTy.val, IntTy.min, IntTy.max, Bool.false_eq_true, if_false]
    omega
  · have hl : -((2 ^ (w - 1) : Nat) : Int) ≤ (p.setWidth w).toInt := by
      push_cast; exact BitVec.le_toInt _
    have hu : (p.setWidth w).toInt < ((2 ^ (w - 1) : Nat) : Int) := by
      push_cast; exact BitVec.toInt_lt
    simp only [IntTy.Fits, IntTy.read, IntTy.val, IntTy.min, IntTy.max, if_true]
    omega

/-- The bits of a placed value above its type's width are zero (10_state.md R27). -/
theorem place_lt (t : IntTy) (v : Int) : (t.place v).toNat < 2 ^ t.width := by
  unfold IntTy.place
  rw [BitVec.toNat_setWidth]
  exact lt_of_le_of_lt (Nat.mod_le _ _) (t.enc v).isLt

/-- Placing a value and reading it back at the same type gives the value. -/
theorem read_place {t : IntTy} {v : Int} (h0 : 0 < t.width) (h : t.width ≤ 128) (hv : t.Fits v) :
    t.read (t.place v) = v := by
  obtain ⟨sg, w⟩ := t
  simp only [IntTy.read, IntTy.place] at *
  rw [BitVec.setWidth_setWidth_of_le _ h, BitVec.setWidth_eq]
  cases sg
  · simp only [IntTy.val, IntTy.enc, IntTy.Fits, IntTy.min, IntTy.max] at *
    rw [BitVec.toNat_ofInt]
    have h2 := two_pow_pos w
    simp only [Bool.false_eq_true, if_false] at *
    rw [Int.emod_eq_of_lt (by omega) (by push_cast at *; omega)]
    omega
  · simp only [IntTy.val, IntTy.enc, IntTy.Fits, IntTy.min, IntTy.max, if_true] at *
    have hp : 2 ^ w = 2 * 2 ^ (w - 1) := by rw [← Nat.pow_succ']; congr 1; omega
    rw [BitVec.toInt_ofInt, Int.bmod_eq_of_le_mul_two] <;> omega

/-- Placement is injective on the values of a type: a response determines its value. -/
theorem place_inj {t : IntTy} {v v' : Int} (h0 : 0 < t.width) (h : t.width ≤ 128) (hv : t.Fits v)
    (hv' : t.Fits v') (he : t.place v = t.place v') : v = v' := by
  rw [← read_place h0 h hv, he, read_place h0 h hv']

/-- Truncating division is the library's. -/
theorem truncDiv_eq_tdiv (x y : Int) : truncDiv x y = x.tdiv y := by
  simp only [truncDiv, floorDiv]
  obtain ⟨m, rfl | rfl⟩ := x.eq_nat_or_neg <;> obtain ⟨n, rfl | rfl⟩ := y.eq_nat_or_neg <;>
    rcases Nat.eq_zero_or_pos m with rfl | hm <;> rcases Nat.eq_zero_or_pos n with rfl | hn <;>
    simp [Int.neg_tdiv, Int.tdiv_neg, Int.sign_natCast_of_ne_zero, *, Nat.pos_iff_ne_zero.mp]

theorem natAbs_truncDiv (x y : Int) : (truncDiv x y).natAbs = x.natAbs / y.natAbs := by
  rw [truncDiv_eq_tdiv, Int.natAbs_tdiv]; rfl

@[simp] theorem truncDiv_zero_left (y : Int) : truncDiv 0 y = 0 := by simp [truncDiv]

/-- The sign of a product and the quotient of magnitudes make the truncated quotient. -/
theorem sign_mul_floorDiv (x y z : Int) (hz : 0 ≤ z) :
    x.sign * y.sign * (floorDiv (x.natAbs * y.natAbs) z.natAbs : Int) = truncDiv (x * y) z := by
  rcases hz.eq_or_lt with rfl | h
  · simp [truncDiv, floorDiv]
  · simp [truncDiv, Int.sign_mul, Int.natAbs_mul, Int.sign_eq_one_of_pos h]

/-- Dividing a value of a signed type by a positive integer keeps it in the type. -/
theorem truncDiv_fits {w : Nat} {v d : Int} (hv : (IntTy.sint w).Fits v) :
    0 < d → (IntTy.sint w).Fits (truncDiv v d) := by
  intro hd
  simp only [IntTy.Fits, IntTy.min, IntTy.max, if_true] at *
  rw [truncDiv_eq_tdiv]
  rcases le_total 0 v with h | h
  · have h1 := Int.tdiv_nonneg h hd.le
    have h2 : v.tdiv d ≤ v := Int.tdiv_le_self _ h
    omega
  · have h1 : (-v).tdiv d ≤ -v := Int.tdiv_le_self _ (by omega)
    have h2 : 0 ≤ (-v).tdiv d := Int.tdiv_nonneg (by omega) hd.le
    rw [Int.neg_tdiv] at h1 h2
    have h3 := two_pow_pos (w - 1)
    omega

end Sys2Proof
end

