-- ==== Sys2Proof/Laws/Parameters.lean ====
section
/-! SUPPORT. What a valid configuration gives (00_scope.md R4, R5, R7, R9). -/

namespace Sys2Proof

/-- The constraints a valid configuration meets. -/
theorem valid_constraints {c : Cfg} (h : c.Valid) : c.Constraints := of_decide_eq_true h

/-- MIN_W = -MAX_W - 1. -/
theorem inner_min_eq (c : Cfg) : c.inner.min = -c.inner.max - 1 := by
  simp only [Cfg.inner, IntTy.min, IntTy.max, if_true]
  omega

section Inner
variable {c : Cfg} (h : c.Valid)
include h

theorem valid_width_pos : 0 < c.inner.width := by
  have hw := (valid_constraints h).1
  simp only [Cfg.inner]
  omega

theorem valid_width_le : c.inner.width ≤ 128 := by
  have hw := (valid_constraints h).1
  simp only [Cfg.inner]
  omega

/-- DIV is strictly positive. -/
theorem valid_scale_pos : 0 < c.scale := by
  obtain ⟨-, ⟨k, -, hk⟩, -⟩ := valid_constraints h
  simp only [Cfg.scale, hk]
  positivity

theorem valid_div_ne_zero : c.div ≠ 0 := by
  have := valid_scale_pos h
  simp only [Cfg.scale] at this
  omega

/-- DIV fits the inner type, so ONE is a value. -/
theorem valid_scale_fits : c.inner.Fits c.scale := by
  have h1 := valid_scale_pos h
  have h2 := zero_fits c.inner
  exact ⟨by have := h2.1; omega, (valid_constraints h).2.2.1⟩

/-- The magnitude of an inner value is at most 2^127, so it is an operand of the primitive
(41_widened_primitive.md R133). -/
theorem valid_natAbs_le {v : Int} (hv : c.inner.Fits v) : v.natAbs ≤ 2 ^ 127 := by
  obtain ⟨h1, h2⟩ := hv
  simp only [Cfg.inner, IntTy.min, IntTy.max, if_true] at h1 h2
  rcases (valid_constraints h).1 with hw | hw | hw <;> rw [hw] at h1 h2 <;> norm_num at h1 h2 <;> omega

/-- MAX_W is positive. -/
theorem inner_max_pos : 0 < c.inner.max := by
  have h1 := valid_scale_pos h
  have h2 := (valid_constraints h).2.2.1
  omega

/-- LATENCY is at least one step (R9). -/
theorem valid_latency_pos (q : Request) : 1 ≤ c.latencyOf q := by
  have hl := (valid_constraints h).2.2.2.2.2.2.2
  unfold Cfg.latencyOf
  generalize c.latency = entries at hl
  clear h
  induction entries with
  | nil => simp
  | cons e es ih =>
    obtain ⟨r, n⟩ := e
    rw [List.lookup_cons]
    split
    · exact hl (r, n) List.mem_cons_self
    · exact ih fun e he => hl e (List.mem_cons_of_mem _ he)
end Inner

end Sys2Proof
end

