-- ==== Sys2Proof/Laws/Arithmetic.lean ====
section
/-! SUPPORT. For each shared arithmetic operation, what it gives in terms of the truncated quotient. -/

namespace Sys2Proof.Machine

/-- Everything the primitive can do (41_widened_primitive.md R130). -/
theorem mulDiv_eq_some {a b c q : Nat} :
    mulDiv a b c = some q ↔ c ≠ 0 ∧ q = a * b / c ∧ q < 2 ^ 128 := by
  unfold mulDiv floorDiv
  split
  · simp [*]
  · split
    · simp_all; omega
    · simp_all

/-- The re-signed quotient through the primitive is the truncated quotient when that fits I, and
FAIL otherwise (41_widened_primitive.md R130 to R134). -/
theorem signedMulDiv_eq {c : Cfg} (h : c.Valid) {sgn v : Int} {a b d : Nat} (hd : d ≠ 0)
    (hv : sgn * ((a * b / d : Nat) : Int) = v) (hn : v.natAbs = a * b / d) :
    signedMulDiv c sgn a b d = if c.inner.Fits v then some v else none := by
  unfold signedMulDiv mulDiv floorDiv resign
  rw [if_neg hd]
  by_cases hq : a * b / d < 2 ^ 128
  · rw [if_pos hq]
    simp only [hv]
  · rw [if_neg hq, if_neg]
    intro hf
    have := valid_natAbs_le h hf
    omega

/-- CMUL's value: `trunc_div(x*y, DIV)` if it fits, FAIL otherwise (43_mul_div.md R170). -/
theorem checkedMul_eq {c : Cfg} (h : c.Valid) (x y : Int) :
    checkedMul c x y =
      if c.inner.Fits (truncDiv (x * y) c.scale) then some (truncDiv (x * y) c.scale) else none := by
  have hs : c.scale.natAbs = c.div := by simp [Cfg.scale]
  refine signedMulDiv_eq h (valid_div_ne_zero h) ?_ ?_
  · have := sign_mul_floorDiv x y c.scale (valid_scale_pos h).le
    rwa [hs] at this
  · rw [natAbs_truncDiv, Int.natAbs_mul, hs]

/-- CDIV's value: `trunc_div(x*DIV, y)` if y is not 0 and it fits, FAIL otherwise; the early exits
change nothing (43_mul_div.md R174, 90_conflicts.md C2). -/
theorem checkedDiv_eq {c : Cfg} (h : c.Valid) (x y : Int) :
    checkedDiv c x y =
      if y = 0 then none
      else if c.inner.Fits (truncDiv (x * c.scale) y) then some (truncDiv (x * c.scale) y)
      else none := by
  have hp := valid_scale_pos h
  have hs : c.scale.natAbs = c.div := by simp [Cfg.scale]
  unfold checkedDiv
  split
  · rfl
  · rename_i hy
    split
    · rename_i hx
      simp [hx, zero_fits c.inner]
    · split
      · rename_i hm
        obtain ⟨rfl, rfl⟩ := hm
        rw [if_neg]
        rw [truncDiv_eq_tdiv, Int.tdiv_neg, Int.tdiv_one]
        intro hf
        have h1 := hf.2
        have h2 := inner_min_eq c
        have h3 := inner_max_pos h
        nlinarith
      · refine signedMulDiv_eq h (Int.natAbs_ne_zero.mpr hy) ?_ ?_
        · simp only [truncDiv, floorDiv, Int.sign_mul, Int.sign_eq_one_of_pos hp, Int.natAbs_mul, hs,
            mul_one]
        · rw [natAbs_truncDiv, Int.natAbs_mul, hs]

/-- A failing CMUL never has sign 0, so CLAMP's last case does not occur (44_saturating.md R190). -/
theorem checkedMul_fail_sign {c : Cfg} (h : c.Valid) {x y : Int} (hf : checkedMul c x y = none) :
    x.sign * y.sign ≠ 0 := by
  rw [checkedMul_eq h] at hf
  intro hs
  rw [← Int.sign_mul, Int.sign_eq_zero_iff_zero] at hs
  rw [hs, truncDiv_zero_left, if_pos (zero_fits _)] at hf
  cases hf

/-- The sign of a truncated quotient that is not 0 is the sign of its dividend. -/
theorem truncDiv_pos_imp {v d : Int} (hd : 0 < d) (hv : 0 < truncDiv v d) : 0 < v := by
  rw [truncDiv_eq_tdiv] at hv
  by_contra hn
  have := Int.tdiv_nonneg (a := -v) (b := d) (by omega) hd.le
  rw [Int.neg_tdiv] at this
  omega

theorem truncDiv_neg_imp {v d : Int} (hd : 0 < d) (hv : truncDiv v d < 0) : v < 0 := by
  rw [truncDiv_eq_tdiv] at hv
  by_contra hn
  have := Int.tdiv_nonneg (a := v) (b := d) (by omega) hd.le
  omega

/-- SMUL's value is `sat_I(trunc_div(x*y, DIV))` (44_saturating.md R191). -/
theorem saturatingMul_eq {c : Cfg} (h : c.Valid) (x y : Int) :
    saturatingMul c x y = c.inner.sat (truncDiv (x * y) c.scale) := by
  have hp := valid_scale_pos h
  have h0 := zero_fits c.inner
  unfold saturatingMul
  rw [checkedMul_eq h, ← Int.sign_mul]
  by_cases hf : c.inner.Fits (truncDiv (x * y) c.scale)
  · rw [if_pos hf, sat_of_fits hf, clamp]
  · rw [if_neg hf, clamp]
    rcases lt_or_ge c.inner.max (truncDiv (x * y) c.scale) with hg | hg
    · have hxy := truncDiv_pos_imp hp (lt_of_le_of_lt h0.2 hg)
      rw [sat_of_gt hg, if_pos (Int.sign_pos_iff.mpr hxy)]
    · have hl : truncDiv (x * y) c.scale < c.inner.min := by
        by_contra hn
        exact hf ⟨by omega, hg⟩
      have hxy := truncDiv_neg_imp hp (lt_of_lt_of_le hl h0.1)
      rw [sat_of_lt hl, Int.sign_eq_neg_one_of_neg hxy]
      simp

theorem saturatingMul_fits {c : Cfg} (h : c.Valid) (x y : Int) :
    c.inner.Fits (saturatingMul c x y) := by
  rw [saturatingMul_eq h]; exact sat_fits _ _

/-- SPOW's loop keeps its result an inner value (44_saturating.md R193). -/
theorem powLoop_fits {c : Cfg} (h : c.Valid) (bits : List Bool) (r x : Int) (hr : c.inner.Fits r) :
    c.inner.Fits (powLoop c bits r x) := by
  induction bits generalizing r x with
  | nil => exact hr
  | cons b bs ih =>
    refine ih _ _ ?_
    split
    · exact saturatingMul_fits h _ _
    · exact hr

theorem saturatingPow_fits {c : Cfg} (h : c.Valid) (x : Int) (e : Nat) :
    c.inner.Fits (saturatingPow c x e) := by
  unfold saturatingPow
  split
  · exact valid_scale_fits h
  · exact powLoop_fits h _ _ _ (valid_scale_fits h)

/-- CMULI's value: the truncated product if it fits I and N, with o narrowed first
(45_cross_width.md R211). -/
theorem checkedMulInt_eq {c : Cfg} (h : c.Valid) (n : IntTy) (x o : Int) :
    checkedMulInt c n x o =
      if c.inner.Fits o ∧ c.inner.Fits (truncDiv (x * o) c.scale) ∧ n.Fits (truncDiv (x * o) c.scale)
      then some (truncDiv (x * o) c.scale) else none := by
  unfold checkedMulInt
  rw [checkedMul_eq h]
  by_cases h1 : c.inner.Fits o
  · rw [if_pos h1]
    by_cases h2 : c.inner.Fits (truncDiv (x * o) c.scale)
    · rw [if_pos h2]
      exact if_congr ⟨fun h3 => ⟨h1, h2, h3⟩, fun h3 => h3.2.2⟩ rfl rfl
    · rw [if_neg h2, if_neg fun h3 => h2 h3.2.1]
  · rw [if_neg h1, if_neg fun h3 => h1 h3.1]

/-- Dividing by o and then by d is dividing by o*d (45_cross_width.md R212). -/
theorem truncDiv_truncDiv (x o d : Int) : truncDiv (truncDiv x o) d = truncDiv x (o * d) := by
  simp only [truncDiv_eq_tdiv]
  obtain ⟨a, rfl | rfl⟩ := x.eq_nat_or_neg <;> obtain ⟨b, rfl | rfl⟩ := o.eq_nat_or_neg <;>
    obtain ⟨e, rfl | rfl⟩ := d.eq_nat_or_neg <;>
    simp only [Int.neg_tdiv, Int.tdiv_neg, neg_neg, neg_mul, mul_neg, ← Int.ofNat_tdiv,
      ← Int.natCast_mul, Nat.div_div_eq_div_mul]

/-- A truncated quotient of an inner value fits I but for MIN_W / -1. -/
theorem truncDiv_fits_iff {c : Cfg} (h : c.Valid) {x o : Int} (hx : c.inner.Fits x) (ho : o ≠ 0) :
    c.inner.Fits (truncDiv x o) ↔ ¬ (x = c.inner.min ∧ o = -1) := by
  have h1 := inner_min_eq c
  have h2 := inner_max_pos h
  constructor
  · rintro hf ⟨rfl, rfl⟩
    rw [truncDiv_eq_tdiv, Int.tdiv_neg, Int.tdiv_one] at hf
    have := hf.2
    omega
  · intro hn
    have hb : (truncDiv x o).natAbs ≤ x.natAbs := by
      rw [natAbs_truncDiv]; exact Nat.div_le_self _ _
    obtain ⟨hl, hu⟩ := hx
    by_cases hm : x = c.inner.min
    · have ho1 : o ≠ -1 := fun e => hn ⟨hm, e⟩
      by_cases ho2 : o = 1
      · subst ho2
        rw [truncDiv_eq_tdiv, Int.tdiv_one]
        exact ⟨hl, hu⟩
      · have hlt : (truncDiv x o).natAbs < x.natAbs := by
          rw [natAbs_truncDiv]
          exact Nat.div_lt_self (by omega) (by omega)
        exact ⟨by omega, by omega⟩
    · exact ⟨by omega, by omega⟩

/-- CDIVI's value (45_cross_width.md R212). -/
theorem checkedDivInt_eq {c : Cfg} (h : c.Valid) (n : IntTy) {x : Int} (hx : c.inner.Fits x)
    (o : Int) :
    checkedDivInt c n x o =
      if c.inner.Fits o ∧ o ≠ 0 ∧ ¬ (x = c.inner.min ∧ o = -1) ∧ n.Fits (truncDiv x (o * c.scale))
      then some (truncDiv x (o * c.scale)) else none := by
  unfold checkedDivInt
  by_cases h1 : c.inner.Fits o
  · rw [if_neg (not_not.mpr h1)]
    by_cases h2 : o = 0
    · rw [if_pos h2, if_neg fun h3 => h3.2.1 h2]
    · rw [if_neg h2, truncDiv_truncDiv]
      by_cases h3 : c.inner.Fits (truncDiv x o)
      · rw [if_neg (not_not.mpr h3)]
        exact if_congr ⟨fun h4 => ⟨h1, h2, (truncDiv_fits_iff h hx h2).mp h3, h4⟩, fun h4 => h4.2.2.2⟩
          rfl rfl
      · rw [if_pos h3, if_neg fun h4 => h3 ((truncDiv_fits_iff h hx h2).mpr h4.2.2.1)]
  · rw [if_pos h1, if_neg fun h3 => h1 h3.1]

/-- RATIO_MUL of 0 parts is 0: law L2 (46_accumulate.md R231). -/
theorem ratioMul_of_zero_parts {c : Cfg} (h : c.Valid) (y : Int) (n : IntTy) :
    ratioMul c 0 y n = 0 := by
  unfold ratioMul
  split
  · rename_i e he
    have hp := List.find?_some he
    have hm := List.mem_of_find?_eq_some he
    simp only [Bool.and_eq_true, beq_iff_eq] at hp
    exact ((valid_constraints h).2.2.2.2.2.2.1 e hm).2 hp.1.1
  · rfl

theorem smacValue_fits (c : Cfg) (n : IntTy) (x y : Int) : n.Fits (smacValue c n x y) := by
  unfold smacValue
  split <;> exact sat_fits _ _

end Sys2Proof.Machine
end

