-- ==== Sys2Proof/Laws/State.lean ====
section
/-! SUPPORT. One lemma per field and update of State, each true by rfl. -/

namespace Sys2Proof.Machine

section Finish
variable (s : State) (a : Answer)

@[simp] theorem finish_cfg : (s.finish a).cfg = s.cfg := rfl
@[simp] theorem finish_rst : (s.finish a).rst = s.rst := rfl
@[simp] theorem finish_request : (s.finish a).request = s.request := rfl
@[simp] theorem finish_inFlight : (s.finish a).inFlight = none := rfl
@[simp] theorem finish_response : (s.finish a).response = some a.response := rfl
@[simp] theorem finish_draws : (s.finish a).draws = s.draws := rfl
end Finish

section Drawn
variable (s : State)

@[simp] theorem drawn_cfg : s.drawn.cfg = s.cfg := rfl
@[simp] theorem drawn_rst : s.drawn.rst = s.rst := rfl
@[simp] theorem drawn_request : s.drawn.request = s.request := rfl
@[simp] theorem drawn_inFlight : s.drawn.inFlight = s.inFlight := rfl
@[simp] theorem drawn_response : s.drawn.response = s.response := rfl
@[simp] theorem drawn_draws : s.drawn.draws = s.draws + 1 := rfl
end Drawn

section Accept
variable (s : State) (q : Request)

@[simp] theorem accept_cfg : (s.accept q).cfg = s.cfg := rfl
@[simp] theorem accept_rst : (s.accept q).rst = s.rst := rfl
@[simp] theorem accept_request : (s.accept q).request = none := rfl
@[simp] theorem accept_inFlight : (s.accept q).inFlight = some ⟨q, s.cfg.latencyOf q⟩ := rfl
@[simp] theorem accept_response : (s.accept q).response = none := rfl
@[simp] theorem accept_draws : (s.accept q).draws = s.draws := rfl
end Accept

section Work
variable (s : State) (f : Flight)

@[simp] theorem work_cfg : (s.work f).cfg = s.cfg := rfl
@[simp] theorem work_rst : (s.work f).rst = s.rst := rfl
@[simp] theorem work_request : (s.work f).request = s.request := rfl
@[simp] theorem work_inFlight : (s.work f).inFlight = some ⟨f.req, f.left - 1⟩ := rfl
@[simp] theorem work_response : (s.work f).response = s.response := rfl
@[simp] theorem work_draws : (s.work f).draws = s.draws := rfl
end Work

section Reset
variable (s : State)

@[simp] theorem resetUnit_cfg : s.resetUnit.cfg = s.cfg := rfl
@[simp] theorem resetUnit_rst : s.resetUnit.rst = false := rfl
@[simp] theorem resetUnit_request : s.resetUnit.request = s.request := rfl
@[simp] theorem resetUnit_inFlight : s.resetUnit.inFlight = none := rfl
@[simp] theorem resetUnit_response : s.resetUnit.response = none := rfl
@[simp] theorem resetUnit_draws : s.resetUnit.draws = s.draws := rfl
end Reset

section Command
variable (s : State) (w : Cmd)

@[simp] theorem withCommand_cfg : (s.withCommand w).cfg = s.cfg := rfl
@[simp] theorem withCommand_rst : (s.withCommand w).rst = false := rfl
@[simp] theorem withCommand_request : (s.withCommand w).request = s.request := rfl
@[simp] theorem withCommand_inFlight :
    (s.withCommand w).inFlight = some ⟨⟨w, s.driven.a, s.driven.b, s.driven.c⟩, 1⟩ := rfl
@[simp] theorem withCommand_response : (s.withCommand w).response = none := rfl
@[simp] theorem withCommand_draws : (s.withCommand w).draws = s.draws := rfl
end Command

/-- The sampled request is the one in flight. -/
theorem sampled_of_inFlight {s : State} {f : Flight} (h : s.inFlight = some f) :
    s.sampled = f.req := by simp [State.sampled, h]

end Sys2Proof.Machine
end

