-- ==== Sys2Proof/Laws/Operands.lean ====
section
/-! SUPPORT. What the operand reads give, and the responses of the answers. -/

namespace Sys2Proof.Machine

section InFlight
variable {s : State} {q : Request} {n : Nat} (h : s.inFlight = some ⟨q, n⟩)
include h

theorem sampled_eq : s.sampled = q := sampled_of_inFlight h

theorem innerA_eq : s.innerA = s.cfg.inner.read q.a := by rw [State.innerA, sampled_eq h]

theorem innerB_eq : s.innerB = s.cfg.inner.read q.b := by rw [State.innerB, sampled_eq h]

theorem innerC_eq : s.innerC = s.cfg.inner.read q.c := by rw [State.innerC, sampled_eq h]

theorem typedB_eq (t : IntTy) : s.typedB t = t.read q.b := by rw [State.typedB, sampled_eq h]
end InFlight

theorem unsignedOf_eq (w : Nat) (p : Port) : unsignedOf w p = p.toNat % 2 ^ w := by
  simp [unsignedOf, BitVec.toNat_setWidth]

@[simp] theorem response_ok (t : IntTy) (v : Int) : (Answer.ok t v).response = ⟨.ok, t.place v⟩ := rfl
@[simp] theorem response_none : Answer.none.response = ⟨.none, 0⟩ := rfl
@[simp] theorem response_faultOvf : Answer.faultOvf.response = ⟨.faultOvf, 0⟩ := rfl
@[simp] theorem response_faultDiv0 : Answer.faultDiv0.response = ⟨.faultDiv0, 0⟩ := rfl
@[simp] theorem response_illegal : Answer.illegal.response = ⟨.illegal, 0⟩ := rfl

/-- R is zero in every response that is not OK (10_state.md R27). -/
theorem response_r_zero (a : Answer) (h : a.response.status ≠ .ok) : a.response.r = 0 := by
  cases a
  · exact absurd rfl h
  all_goals rfl

/-- The raw, checked and saturating answers for a value that fits are the same (42_add_sub.md R150). -/
theorem raw_of_fits {t : IntTy} {v : Int} (h : t.Fits v) : Answer.raw t v = .ok t v := if_pos h

theorem checked_of_fits {t : IntTy} {v : Int} (h : t.Fits v) : Answer.checked t v = .ok t v := if_pos h

/-- and for one that does not, a fault and NONE. -/
theorem raw_of_not_fits {t : IntTy} {v : Int} (h : ¬ t.Fits v) : Answer.raw t v = .faultOvf := if_neg h

theorem checked_of_not_fits {t : IntTy} {v : Int} (h : ¬ t.Fits v) : Answer.checked t v = .none :=
  if_neg h

end Sys2Proof.Machine
end

