-- ==== Sys2Proof/Laws/PerInstr.lean ====
section
/-! SUPPORT. The per-instruction laws. -/

namespace Sys2Proof.Laws.Encoding

/-- The fields of an instruction's command word (30_encoding.md R55, R57, R59, R62): RSV is zero, OP is
its opcode, and NT is zero where it takes no N type. -/
def Statement (i : Instr) : Prop :=
  (encode i).rsv = 0 ∧ (encode i).op = i.opcode ∧ (encode i).nt = i.ntField ∧
    (i.ntField = 0 ∨ ∃ e, opmap i.opcode = some (.typed e))

/-- The fields of a command word are the ones it was made of. -/
theorem commandWord_fields : ∀ (nt : BitVec 4) (op : BitVec 6),
    (commandWord nt op).rsv = 0 ∧ (commandWord nt op).op = op ∧ (commandWord nt op).nt = nt := by
  decide

/-- An instruction with the zero NT field. -/
theorem plain {i : Instr} (h : i.ntField = 0) : Statement i :=
  have w := commandWord_fields i.ntField i.opcode
  ⟨w.1, w.2.1, w.2.2, .inl h⟩

/-- An instruction whose opcode takes an N type. -/
theorem typed {i : Instr} {e : IntTy → Instr} (h : opmap i.opcode = some (.typed e)) : Statement i :=
  have w := commandWord_fields i.ntField i.opcode
  ⟨w.1, w.2.1, w.2.2, .inr ⟨e, h⟩⟩

theorem fromint : Statement .fromint := plain rfl
theorem cfromint : Statement .cfromint := plain rfl
theorem fromrat (n : IntTy) : Statement (.fromrat n) := typed (e := .fromrat) rfl
theorem cfromrat (n : IntTy) : Statement (.cfromrat n) := typed (e := .cfromrat) rfl
theorem pass : Statement .pass := plain rfl
theorem zero : Statement .zero := plain rfl
theorem one : Statement .one := plain rfl
theorem iszero : Statement .iszero := plain rfl
theorem ispos : Statement .ispos := plain rfl
theorem isneg : Statement .isneg := plain rfl
theorem cmp : Statement .cmp := plain rfl
theorem muldiv : Statement .muldiv := plain rfl
theorem radd : Statement .radd := plain rfl
theorem rsub : Statement .rsub := plain rfl
theorem cadd : Statement .cadd := plain rfl
theorem csub : Statement .csub := plain rfl
theorem sadd : Statement .sadd := plain rfl
theorem ssub : Statement .ssub := plain rfl
theorem rmul : Statement .rmul := plain rfl
theorem rdiv : Statement .rdiv := plain rfl
theorem cmul : Statement .cmul := plain rfl
theorem cdiv : Statement .cdiv := plain rfl
theorem smul : Statement .smul := plain rfl
theorem sabs : Statement .sabs := plain rfl
theorem spow : Statement .spow := plain rfl
theorem cmuli (n : IntTy) : Statement (.cmuli n) := typed (e := .cmuli) rfl
theorem cdivi (n : IntTy) : Statement (.cdivi n) := typed (e := .cdivi) rfl
theorem smuli (n : IntTy) : Statement (.smuli n) := typed (e := .smuli) rfl
theorem smac (n : IntTy) : Statement (.smac n) := typed (e := .smac) rfl
theorem minv : Statement .minv := plain rfl
theorem maxv : Statement .maxv := plain rfl
theorem fromratio : Statement .fromratio := plain rfl

end Sys2Proof.Laws.Encoding
end

