-- ==== Sys2Proof/Laws/Step.lean ====
section
/-! SUPPORT. What a meaning and a step can do, said once. -/

namespace Sys2Proof.Machine

@[simp] theorem answer_eq (s : State) (a : Answer) : s.answer a = .next (s.finish a) := rfl

/-- SMULI is answered from its state, or from the state with one draw taken. -/
theorem execSmuli_finish (n : IntTy) (s : State) :
    (∃ v, execSmuli n s = .next (s.finish (.ok n v))) ∨
      execSmuli n s = .next (s.drawn.finish (.ok n (drawOf n s.draws))) := by
  unfold execSmuli
  split
  · exact .inl ⟨_, rfl⟩
  · exact .inr rfl

/-- Everything a meaning can do: it answers, from its state or, for SMULI, after one draw. -/
theorem exec_finish (i : Instr) (s : State) :
    (∃ a, exec i s = .next (s.finish a)) ∨
      ∃ n, i = .smuli n ∧ exec i s = .next (s.drawn.finish (.ok n (drawOf n s.draws))) := by
  cases i
  case smuli n =>
    rcases execSmuli_finish n s with ⟨v, h⟩ | h
    · exact .inl ⟨_, h⟩
    · exact .inr ⟨n, rfl, h⟩
  all_goals exact .inl ⟨_, rfl⟩

/-- A meaning reads the configuration, the sampled request and the draw count, and nothing else: two
states that agree in these get the same answer. -/
theorem exec_agree (i : Instr) {s s' : State} (hc : s.cfg = s'.cfg) (hq : s.sampled = s'.sampled)
    (hd : s.draws = s'.draws) :
    ∃ a d, exec i s = .next { s with inFlight := none, response := some a, draws := d } ∧
      exec i s' = .next { s' with inFlight := none, response := some a, draws := d } := by
  have hA : s'.innerA = s.innerA := by rw [State.innerA, State.innerA, hc, hq]
  have hB : s'.innerB = s.innerB := by rw [State.innerB, State.innerB, hc, hq]
  have hC : s'.innerC = s.innerC := by rw [State.innerC, State.innerC, hc, hq]
  have hT : ∀ n, s'.typedB n = s.typedB n := fun n => by rw [State.typedB, State.typedB, hq]
  cases i
  case smuli n =>
    simp only [exec, execSmuli, hA, hT, ← hc, ← hd]
    cases saturatingMulInt s.cfg n s.innerA (s.typedB n)
    · exact ⟨_, s.draws + 1, rfl, by simp only [answer_eq, State.finish, State.drawn, ← hc, ← hd]⟩
    · exact ⟨_, s.draws, rfl, by simp only [answer_eq, State.finish, ← hc, ← hd]⟩
  all_goals
    refine ⟨_, s.draws, rfl, ?_⟩
    simp only [exec, execFromint, execCfromint, execFromrat, execCfromrat, execPass, execZero, execOne,
      execIszero, execIspos, execIsneg, execCmp, execMuldiv, execRadd, execRsub, execCadd, execCsub,
      execSadd, execSsub, execRmul, execRdiv, execCmul, execCdiv, execSmul, execSabs, execSpow,
      execCmuli, execCdivi, execSmac, execMinv, execMaxv, execFromratio, answer_eq, State.finish,
      hA, hB, hC, hT, ← hc, ← hd, ← hq]

/-- Everything the command in flight can do. -/
theorem runCommand_finish (s : State) (w : Cmd) :
    ∃ s' a, (s' = s ∨ s' = s.drawn) ∧ runCommand s w = .next (s'.finish a) := by
  unfold runCommand
  split
  · rename_i i _
    rcases exec_finish i s with ⟨a, h⟩ | ⟨n, -, h⟩
    · exact ⟨s, a, .inl rfl, h⟩
    · exact ⟨s.drawn, _, .inr rfl, h⟩
  · exact ⟨s, .illegal, .inl rfl, rfl⟩

/-- Everything a step can do. -/
theorem step_cases {s t : State} (h : step s = .next t) :
    s.cfg.Valid ∧
    ((s.rst = true ∧ t = s.resetUnit) ∨
     (s.rst = false ∧ ∃ f, s.inFlight = some f ∧ 1 < f.left ∧ t = s.work f) ∨
     (s.rst = false ∧ ∃ f, s.inFlight = some f ∧ f.left ≤ 1 ∧
        ∃ s' a, (s' = s ∨ s' = s.drawn) ∧ t = s'.finish a) ∨
     (s.rst = false ∧ s.inFlight = none ∧ ∃ q, s.request = some q ∧ t = s.accept q) ∨
     (s.rst = false ∧ s.inFlight = none ∧ s.request = none ∧ t = s)) := by
  unfold step advance at h
  split at h
  · rename_i hv
    refine ⟨hv, ?_⟩
    split at h
    · rename_i hr
      cases h
      exact .inl ⟨hr, rfl⟩
    · rename_i hr
      have hr' : s.rst = false := by simpa using hr
      split at h
      · rename_i f hf
        split at h
        · rename_i hl
          obtain ⟨s', a, hs', he⟩ := runCommand_finish s f.req.cmd
          rw [he] at h
          cases h
          exact .inr (.inr (.inl ⟨hr', f, hf, hl, s', a, hs', rfl⟩))
        · rename_i hl
          cases h
          exact .inr (.inl ⟨hr', f, hf, by omega, rfl⟩)
      · rename_i hf
        split at h
        · rename_i q hq
          cases h
          exact .inr (.inr (.inr (.inl ⟨hr', hf, q, hq, rfl⟩)))
        · rename_i hq
          cases h
          exact .inr (.inr (.inr (.inr ⟨hr', hf, hq, rfl⟩)))
  · cases h

/-- A run of k + 1 steps is a step and a run of k steps, on any machine. -/
theorem core_run_succ (M : Host.Core) (k : Nat) {s t : M.State} (h : M.step s = .next t) :
    M.run (k + 1) s = M.run k t := by
  rw [Host.Core.run]
  simp [h]

/-- The same of this machine. -/
theorem run_succ (k : Nat) {s t : State} (h : step s = .next t) :
    Host.Core.run Sys2Proof.core (k + 1) s = Host.Core.run Sys2Proof.core k t :=
  core_run_succ Sys2Proof.core k h

end Sys2Proof.Machine
end

