-- ==== Sys2Proof/Tests/Slice0.lean ====
section
/-! SUPPORT. Tests: the expected words and results are those of spec/30_encoding.md and
spec/95_test_vectors.md, or by hand from the rules cited; and, for every obligation with hypotheses, a
witness that meets them, clause by clause. -/

namespace Sys2Proof.Tests

open Sys2Proof Sys2Proof.Machine

/-! ### Well-formedness -/

/-- R60: no N type is 24 bits wide; each NT opcode refuses one. -/
theorem test_wellFormed_width :
    (Instr.fromrat (.sint 24)).wellFormed = false ∧ (Instr.cfromrat (.uint 0)).wellFormed = false ∧
    (Instr.cmuli (.sint 256)).wellFormed = false ∧ (Instr.cdivi (.uint 24)).wellFormed = false ∧
    (Instr.smuli (.sint 1)).wellFormed = false ∧ (Instr.smac (.uint 127)).wellFormed = false := by
  decide

theorem test_wellFormed_nTypes : ∀ n ∈ nTypes, (Instr.smac n).wellFormed = true := by decide

/-! ### Decoding: words written out from the tables of 30_encoding.md R55, R57 and R60 -/

theorem test_decode_construction :
    decode 0b000000_0000_000001 = .ok .fromint ∧ decode 0b000000_0000_000010 = .ok .cfromint ∧
    decode 0b000000_1100_000011 = .ok (.fromrat (.sint 64)) ∧
    decode 0b000000_0011_000100 = .ok (.cfromrat (.uint 32)) ∧
    decode 0b000000_0000_000101 = .ok .pass ∧ decode 0b000000_0000_000110 = .ok .zero ∧
    decode 0b000000_0000_000111 = .ok .one ∧ decode 0b000000_0000_001000 = .ok .iszero ∧
    decode 0b000000_0000_001001 = .ok .ispos ∧ decode 0b000000_0000_001010 = .ok .isneg ∧
    decode 0b000000_0000_001011 = .ok .cmp := ⟨rfl, rfl, rfl, rfl, rfl, rfl, rfl, rfl, rfl, rfl, rfl⟩

theorem test_decode_primitive : decode 0b000000_0000_010000 = .ok .muldiv := rfl

theorem test_decode_add_sub :
    decode 0b000000_0000_010001 = .ok .radd ∧ decode 0b000000_0000_010010 = .ok .rsub ∧
    decode 0b000000_0000_010011 = .ok .cadd ∧ decode 0b000000_0000_010100 = .ok .csub ∧
    decode 0b000000_0000_010101 = .ok .sadd ∧ decode 0b000000_0000_010110 = .ok .ssub :=
  ⟨rfl, rfl, rfl, rfl, rfl, rfl⟩

theorem test_decode_mul_div :
    decode 0b000000_0000_011000 = .ok .rmul ∧ decode 0b000000_0000_011001 = .ok .rdiv ∧
    decode 0b000000_0000_011010 = .ok .cmul ∧ decode 0b000000_0000_011011 = .ok .cdiv :=
  ⟨rfl, rfl, rfl, rfl⟩

theorem test_decode_saturating :
    decode 0b000000_0000_011100 = .ok .smul ∧ decode 0b000000_0000_011101 = .ok .sabs ∧
    decode 0b000000_0000_011110 = .ok .spow := ⟨rfl, rfl, rfl⟩

theorem test_decode_cross_width :
    decode 0b000000_1010_100000 = .ok (.cmuli (.sint 16)) ∧
    decode 0b000000_1011_100001 = .ok (.cdivi (.sint 32)) ∧
    decode 0b000000_0001_100010 = .ok (.smuli (.uint 8)) := ⟨rfl, rfl, rfl⟩

/-- SMAC at all ten N types of R60. -/
theorem test_decode_accumulate :
    decode 0b000000_0001_100100 = .ok (.smac (.uint 8)) ∧
    decode 0b000000_0010_100100 = .ok (.smac (.uint 16)) ∧
    decode 0b000000_0011_100100 = .ok (.smac (.uint 32)) ∧
    decode 0b000000_0100_100100 = .ok (.smac (.uint 64)) ∧
    decode 0b000000_0101_100100 = .ok (.smac (.uint 128)) ∧
    decode 0b000000_1001_100100 = .ok (.smac (.sint 8)) ∧
    decode 0b000000_1010_100100 = .ok (.smac (.sint 16)) ∧
    decode 0b000000_1011_100100 = .ok (.smac (.sint 32)) ∧
    decode 0b000000_1100_100100 = .ok (.smac (.sint 64)) ∧
    decode 0b000000_1101_100100 = .ok (.smac (.sint 128)) :=
  ⟨rfl, rfl, rfl, rfl, rfl, rfl, rfl, rfl, rfl, rfl⟩

theorem test_decode_bounds :
    decode 0b000000_0000_101000 = .ok .minv ∧ decode 0b000000_0000_101001 = .ok .maxv ∧
    decode 0b000000_0000_101010 = .ok .fromratio := ⟨rfl, rfl, rfl⟩

/-- 95_test_vectors.md section 2.0, with the reason each row gives. -/
theorem test_illegal_words :
    (∀ w ∈ [0x0000, 0x000C, 0x000F, 0x0017, 0x001F, 0x0023, 0x0327, 0x002B, 0x003F],
      decode w = .error .reservedOpcode) ∧
    (∀ w ∈ [0x041A, 0x8001, 0xFFFF], decode w = .error .reservedBits) ∧
    (∀ w ∈ [0x011A, 0x0150, 0x0201, 0x0219], decode w = .error .ntypeNotTaken) ∧
    (∀ w ∈ [0x0022, 0x0203, 0x0383, 0x01C4, 0x03E4], decode w = .error .reservedNType) := by
  simp only [List.forall_mem_cons, List.not_mem_nil, IsEmpty.forall_iff, implies_true, and_true]
  exact ⟨⟨rfl, rfl, rfl, rfl, rfl, rfl, rfl, rfl, rfl⟩, ⟨rfl, rfl, rfl⟩, ⟨rfl, rfl, rfl, rfl⟩,
    rfl, rfl, rfl, rfl, rfl⟩

/-- The table's numbering is the command word's, and bits above it are not looked at. -/
theorem test_decodeTableWord :
    decodeTableWord 16 0x0322 = some (.smuli (.sint 64)) ∧ decodeTableWord 16 0x0400 = none ∧
    decodeTableWord 16 0x1001A = some .cmul := ⟨rfl, rfl, rfl⟩

/-! ### Configurations (00_scope.md R2 to R9 and section 3) -/

theorem test_named_configurations :
    Cfg.fxu64d9.Valid ∧ Cfg.fxu128d18.Valid ∧ Cfg.fxu32d4.Valid ∧ Cfg.fxu128d19.Valid ∧
    Cfg.fxu64d0.Valid := by decide

/-- One digit of DIV more, another width, a DIV that is no power of ten, ACCURACY 0 or above MAX_W, a
RATIO_MUL that breaks L1 or L2, a LATENCY of 0. -/
theorem test_invalid_configurations :
    ¬ (⟨64, 10 ^ 10, 1, [], []⟩ : Cfg).Valid ∧ ¬ (⟨32, 10 ^ 5, 1, [], []⟩ : Cfg).Valid ∧
    ¬ (⟨128, 10 ^ 20, 1, [], []⟩ : Cfg).Valid ∧ ¬ (⟨16, 1, 1, [], []⟩ : Cfg).Valid ∧
    ¬ (⟨64, 16, 1, [], []⟩ : Cfg).Valid ∧ ¬ (⟨64, 1, 0, [], []⟩ : Cfg).Valid ∧
    ¬ (⟨32, 1, 2 ^ 31, [], []⟩ : Cfg).Valid ∧
    ¬ (⟨64, 100, 100, [⟨7, 3, .uint 8, 256⟩], []⟩ : Cfg).Valid ∧
    ¬ (⟨64, 100, 100, [⟨0, 3, .uint 8, 1⟩], []⟩ : Cfg).Valid ∧
    ¬ (⟨64, 1, 1, [], [(zeroRequest, 0)]⟩ : Cfg).Valid := by decide

/-- R2: `FXU64-D9` is the 64-bit unit with DIV = 10^9. -/
theorem test_precision : Cfg.fxu64d9.precision = 9 ∧ Cfg.fxu64d0.precision = 0 := by
  constructor
  · show Nat.log 10 (10 ^ 9) = 9
    exact Nat.log_pow (by norm_num) 9
  · show Nat.log 10 1 = 0
    simp

/-- A valid configuration's step. -/
theorem step_valid' {s : State} (hc : s.cfg = Cfg.fxu64d9) : step s = advance s :=
  if_pos (hc ▸ (by decide : Cfg.fxu64d9.Valid))

/-! ### One step per instruction: rows of spec/95_test_vectors.md -/

/-- The request in flight and due, the state else as reset leaves it. -/
def flying (c : Cfg) (q : Request) (left : Nat) : State :=
  { State.reset with cfg := c, inFlight := some ⟨q, left⟩ }

/-- The response pending after one step. -/
def afterStep (s : State) : Option Response :=
  match step s with
  | .next t => t.response
  | .fault r => nomatch r
  | .refused _ => none

/-- The response to a command word with its operands on the ports the opcode reads. -/
def shot (c : Cfg) (w : Cmd) (ops : List Int) : Option Response :=
  match decode w with
  | .ok i =>
    match assemble c i ops with
    | some q => afterStep (flying c ⟨w, q.a, q.b, q.c⟩ 1)
    | none => none
  | .error _ => afterStep (flying c ⟨w, 0, 0, 0⟩ 1)

/-- FXU64-D9 with one value of RATIO_MUL known. -/
def withRatio (e : RatioEntry) : Cfg := { Cfg.fxu64d9 with ratio := [e] }

/-- `FROMINT -9223372036`, FXU64D9. -/
theorem test_fromint_bottom : shot .fxu64d9 0x0001 [-9223372036] =
    some ⟨.ok, 0x8000000032f2d800⟩ := by
  decide

/-- `FROMINT -9223372037`, FXU64D9. -/
theorem test_fromint_saturates : shot .fxu64d9 0x0001 [-9223372037] =
    some ⟨.ok, 0x8000000000000000⟩ := by
  decide

/-- `CFROMINT 9223372036`, FXU64D9. -/
theorem test_cfromint_top : shot .fxu64d9 0x0002 [9223372036] =
    some ⟨.ok, 0x7fffffffcd0d2800⟩ := by
  decide

/-- `CFROMINT -9223372037`, FXU64D9. -/
theorem test_cfromint_none : shot .fxu64d9 0x0002 [-9223372037] =
    some ⟨.none, 0⟩ := by
  decide

/-- `FROMRAT.u8 255, 1`, FXU64D9. -/
theorem test_fromrat_wider_than_N : shot .fxu64d9 0x0043 [255, 1] =
    some ⟨.ok, 0x3b5f2f3600⟩ := by
  decide

/-- `FROMRAT.i64 9223372037, 0`, FXU64D9. -/
theorem test_fromrat_zero_divisor_first : shot .fxu64d9 0x0303 [9223372037, 0] =
    some ⟨.faultDiv0, 0⟩ := by
  decide

/-- `CFROMRAT.u32 1, 3`, FXU64D9. -/
theorem test_cfromrat_unsigned : shot .fxu64d9 0x00C4 [1, 3] =
    some ⟨.ok, 0x13de4355⟩ := by
  decide

/-- `CFROMRAT.i64 -9223372036854775808, -1`, FXU64D0. -/
theorem test_cfromrat_quotient : shot .fxu64d0 0x0304 [-9223372036854775808, -1] =
    some ⟨.none, 0⟩ := by
  decide

/-- `PASS -9223372036854775808`, FXU64D9. -/
theorem test_pass_min : shot .fxu64d9 0x0005 [-9223372036854775808] =
    some ⟨.ok, 0x8000000000000000⟩ := by
  decide

/-- `ZERO`, FXU64D9. -/
theorem test_zero : shot .fxu64d9 0x0006 [] =
    some ⟨.ok, 0⟩ := by
  decide

/-- `ONE`, FXU64D9. -/
theorem test_one : shot .fxu64d9 0x0007 [] =
    some ⟨.ok, 0x3b9aca00⟩ := by
  decide

/-- `ONE`, FXU128D18. -/
theorem test_one_128 : shot .fxu128d18 0x0007 [] =
    some ⟨.ok, 0xde0b6b3a7640000⟩ := by
  decide

/-- `ISZERO 0`, FXU64D9. -/
theorem test_iszero : shot .fxu64d9 0x0008 [0] =
    some ⟨.ok, 0x1⟩ := by
  decide

/-- `ISZERO -9223372036854775808`, FXU64D9. -/
theorem test_iszero_min : shot .fxu64d9 0x0008 [-9223372036854775808] =
    some ⟨.ok, 0⟩ := by
  decide

/-- `ISPOS 1`, FXU64D9. -/
theorem test_ispos : shot .fxu64d9 0x0009 [1] =
    some ⟨.ok, 0x1⟩ := by
  decide

/-- `ISPOS 0`, FXU64D9. -/
theorem test_ispos_zero : shot .fxu64d9 0x0009 [0] =
    some ⟨.ok, 0⟩ := by
  decide

/-- `ISNEG -1`, FXU64D9. -/
theorem test_isneg : shot .fxu64d9 0x000A [-1] =
    some ⟨.ok, 0x1⟩ := by
  decide

/-- `ISNEG 9223372036854775807`, FXU64D9. -/
theorem test_isneg_max : shot .fxu64d9 0x000A [9223372036854775807] =
    some ⟨.ok, 0⟩ := by
  decide

/-- `CMP -9223372036854775808, 9223372036854775807`, FXU64D9. -/
theorem test_cmp_less : shot .fxu64d9 0x000B [-9223372036854775808, 9223372036854775807] =
    some ⟨.ok, 0xffffffffffffffff⟩ := by
  decide

/-- `CMP 9223372036854775807, -9223372036854775808`, FXU64D9. -/
theorem test_cmp_greater : shot .fxu64d9 0x000B [9223372036854775807, -9223372036854775808] =
    some ⟨.ok, 0x1⟩ := by
  decide

/-- `MULDIV 10, 10, 3`, FXU64D9. -/
theorem test_muldiv_floor : shot .fxu64d9 0x0010 [10, 10, 3] =
    some ⟨.ok, 0x21⟩ := by
  decide

/-- `MULDIV 170141183460469231731687303715884105728, 2, 1`, FXU64D9. -/
theorem test_muldiv_too_wide : shot .fxu64d9 0x0010 [170141183460469231731687303715884105728, 2, 1] =
    some ⟨.none, 0⟩ := by
  decide

/-- `RADD 9223372036854775807, -9223372036854775808`, FXU64D9. -/
theorem test_radd_wide : shot .fxu64d9 0x0011 [9223372036854775807, -9223372036854775808] =
    some ⟨.ok, 0xffffffffffffffff⟩ := by
  decide

/-- `RADD -9223372036854775808, -1`, FXU64D9. -/
theorem test_radd_overflow : shot .fxu64d9 0x0011 [-9223372036854775808, -1] =
    some ⟨.faultOvf, 0⟩ := by
  decide

/-- `RSUB 5, 7`, FXU64D9. -/
theorem test_rsub : shot .fxu64d9 0x0012 [5, 7] =
    some ⟨.ok, 0xfffffffffffffffe⟩ := by
  decide

/-- `RSUB 0, -9223372036854775808`, FXU64D9. -/
theorem test_rsub_overflow : shot .fxu64d9 0x0012 [0, -9223372036854775808] =
    some ⟨.faultOvf, 0⟩ := by
  decide

/-- `CADD 1500000000, 2500000000`, FXU64D9. -/
theorem test_cadd : shot .fxu64d9 0x0013 [1500000000, 2500000000] =
    some ⟨.ok, 0xee6b2800⟩ := by
  decide

/-- `CADD 9223372036854775807, 1`, FXU64D9. -/
theorem test_cadd_none : shot .fxu64d9 0x0013 [9223372036854775807, 1] =
    some ⟨.none, 0⟩ := by
  decide

/-- `CSUB -1, 9223372036854775807`, FXU64D9. -/
theorem test_csub_min : shot .fxu64d9 0x0014 [-1, 9223372036854775807] =
    some ⟨.ok, 0x8000000000000000⟩ := by
  decide

/-- `CSUB 0, -9223372036854775808`, FXU64D9. -/
theorem test_csub_none : shot .fxu64d9 0x0014 [0, -9223372036854775808] =
    some ⟨.none, 0⟩ := by
  decide

/-- `SADD -9223372036854775808, -1`, FXU64D9. -/
theorem test_sadd_low : shot .fxu64d9 0x0015 [-9223372036854775808, -1] =
    some ⟨.ok, 0x8000000000000000⟩ := by
  decide

/-- `SADD 2147483647, 1`, FXU32D4. -/
theorem test_sadd_32 : shot .fxu32d4 0x0015 [2147483647, 1] =
    some ⟨.ok, 0x7fffffff⟩ := by
  decide

/-- `SSUB -9223372036854775808, 1`, FXU64D9. -/
theorem test_ssub_low : shot .fxu64d9 0x0016 [-9223372036854775808, 1] =
    some ⟨.ok, 0x8000000000000000⟩ := by
  decide

/-- `SSUB 0, -9223372036854775808`, FXU64D9. -/
theorem test_ssub_high : shot .fxu64d9 0x0016 [0, -9223372036854775808] =
    some ⟨.ok, 0x7fffffffffffffff⟩ := by
  decide

/-- `RMUL 3000000000, 2500000000`, FXU64D9. -/
theorem test_rmul : shot .fxu64d9 0x0018 [3000000000, 2500000000] =
    some ⟨.ok, 0x1bf08eb00⟩ := by
  decide

/-- `RMUL 4000000000, 4000000000`, FXU64D9. -/
theorem test_rmul_overflow : shot .fxu64d9 0x0018 [4000000000, 4000000000] =
    some ⟨.faultOvf, 0⟩ := by
  decide

/-- `RDIV -1000000000, 3000000000`, FXU64D9. -/
theorem test_rdiv_truncates : shot .fxu64d9 0x0019 [-1000000000, 3000000000] =
    some ⟨.ok, 0xffffffffec21bcab⟩ := by
  decide

/-- `RDIV -9223372036854775808, -1`, FXU64D0. -/
theorem test_rdiv_quotient : shot .fxu64d0 0x0019 [-9223372036854775808, -1] =
    some ⟨.faultOvf, 0⟩ := by
  decide

/-- `CMUL -1500000000, 1000000001`, FXU64D9. -/
theorem test_cmul_truncates : shot .fxu64d9 0x001A [-1500000000, 1000000001] =
    some ⟨.ok, 0xffffffffa697d0ff⟩ := by
  decide

/-- `CMUL 170141183460469231731687303715884105727, 170141183460469231731687303715884105727`, FXU128D18. -/
theorem test_cmul_primitive_fails : shot .fxu128d18 0x001A [170141183460469231731687303715884105727, 170141183460469231731687303715884105727] =
    some ⟨.none, 0⟩ := by
  decide

/-- `CDIV -1000000000, 3000000000`, FXU64D9. -/
theorem test_cdiv_truncates : shot .fxu64d9 0x001B [-1000000000, 3000000000] =
    some ⟨.ok, 0xffffffffec21bcab⟩ := by
  decide

/-- `CDIV 300000, 10000`, FXU32D4. -/
theorem test_cdiv_widened : shot .fxu32d4 0x001B [300000, 10000] =
    some ⟨.ok, 0x493e0⟩ := by
  decide

/-- `SMUL -9223372036854775808, 2000000000`, FXU64D9. -/
theorem test_smul_low : shot .fxu64d9 0x001C [-9223372036854775808, 2000000000] =
    some ⟨.ok, 0x8000000000000000⟩ := by
  decide

/-- `SMUL -9223372036854775808, -1000000000`, FXU64D9. -/
theorem test_smul_high : shot .fxu64d9 0x001C [-9223372036854775808, -1000000000] =
    some ⟨.ok, 0x7fffffffffffffff⟩ := by
  decide

/-- `SABS -9223372036854775808`, FXU64D9. -/
theorem test_sabs_min : shot .fxu64d9 0x001D [-9223372036854775808] =
    some ⟨.ok, 0x7fffffffffffffff⟩ := by
  decide

/-- `SABS -5`, FXU64D9. -/
theorem test_sabs : shot .fxu64d9 0x001D [-5] =
    some ⟨.ok, 0x5⟩ := by
  decide

/-- `SPOW 1234567891, 7`, FXU64D9. -/
theorem test_spow_stepwise : shot .fxu64d9 0x001E [1234567891, 7] =
    some ⟨.ok, 0x1048bdbba⟩ := by
  decide

/-- `SPOW -2000000000, 63`, FXU64D9. -/
theorem test_spow_low : shot .fxu64d9 0x001E [-2000000000, 63] =
    some ⟨.ok, 0x8000000000000000⟩ := by
  decide

/-- `CMULI.i64 1500000000, -3`, FXU64D9. -/
theorem test_cmuli_truncates : shot .fxu64d9 0x0320 [1500000000, -3] =
    some ⟨.ok, 0xfffffffffffffffc⟩ := by
  decide

/-- `CMULI.u64 -2500000000, 10`, FXU64D9. -/
theorem test_cmuli_negative : shot .fxu64d9 0x0120 [-2500000000, 10] =
    some ⟨.none, 0⟩ := by
  decide

/-- `CDIVI.i32 -7000000000, 2`, FXU64D9. -/
theorem test_cdivi_truncates : shot .fxu64d9 0x02E1 [-7000000000, 2] =
    some ⟨.ok, 0xfffffffd⟩ := by
  decide

/-- `CDIVI.i64 -9223372036854775808, -1`, FXU64D9. -/
theorem test_cdivi_min : shot .fxu64d9 0x0321 [-9223372036854775808, -1] =
    some ⟨.none, 0⟩ := by
  decide

/-- `SMULI.i8 -2500000000, 100`, FXU64D9. -/
theorem test_smuli_low : shot .fxu64d9 0x0262 [-2500000000, 100] =
    some ⟨.ok, 0x80⟩ := by
  decide

/-- `SMAC.u128 500000000, 1000`, FXU64D9, exact ratio. -/
theorem test_smac_adds : shot (withRatio ⟨500000000, 1000, .uint 128, 500⟩) 0x0164 [500000000, 1000] =
    some ⟨.ok, 0x5dc⟩ := by
  decide

/-- `SMAC.i8 1500000000, -100`, FXU64D9, exact ratio. -/
theorem test_smac_excess : shot (withRatio ⟨500000000, -100, .sint 8, -50⟩) 0x0264 [1500000000, -100] =
    some ⟨.ok, 0x80⟩ := by
  decide

/-- `MINV`, FXU64D9. -/
theorem test_minv : shot .fxu64d9 0x0028 [] =
    some ⟨.ok, 0x8000000000000000⟩ := by
  decide

/-- `MAXV`, FXU64D9. -/
theorem test_maxv : shot .fxu64d9 0x0029 [] =
    some ⟨.ok, 0x7fffffffffffffff⟩ := by
  decide

/-- `FROMRATIO 500000000`, FXU64D9. -/
theorem test_fromratio : shot .fxu64d9 0x002A [500000000] =
    some ⟨.ok, 0x1dcd6500⟩ := by
  decide

/-- `FROMRATIO 18446744073709551615`, FXU128D19. -/
theorem test_fromratio_max : shot .fxu128d19 0x002A [18446744073709551615] =
    some ⟨.ok, 0x7fffffffffffffffffffffffffffffff⟩ := by
  decide


/-- The draw of SMULI (95_test_vectors.md section 2.7): the status is OK, and one draw is taken. -/
theorem test_smuli_draw :
    (shot .fxu64d9 0x0362 [0, 1267650600228229401496703205376]).map Response.status = some .ok := by
  decide

/-- 95_test_vectors.md section 2.0, last row: ILLEGAL before the divide by zero. -/
theorem test_illegal_before_div0 : shot .fxu64d9 0x0219 [] = some ⟨.illegal, 0⟩ := by decide

/-- 60_exceptions.md R270: the status codes. -/
theorem test_status_codes :
    Status.ok.code = 0b000 ∧ Status.none.code = 0b001 ∧ Status.faultOvf.code = 0b010 ∧
    Status.faultDiv0.code = 0b011 ∧ Status.illegal.code = 0b100 := ⟨rfl, rfl, rfl, rfl, rfl⟩

/-- An idle unit samples what is presented, and the earlier response is no longer pending (20_memory.md
R43, R44; log 6, log 7). -/
theorem test_accept :
    step { State.reset with request := some zeroRequest, response := some ⟨.ok, 5⟩ } =
      .next (flying .fxu64d9 zeroRequest 1) := (step_valid' rfl).trans rfl

/-- A request in flight when reset is applied is lost (70_reset_and_hazards.md R302). -/
theorem test_reset :
    step { flying .fxu64d9 zeroRequest 2 with rst := true } = .next State.reset :=
  (step_valid' rfl).trans rfl

/-! ### The assembler (30_encoding.md R67, R68) -/

theorem test_pseudo :
    expandPseudo .fromInner = .pass ∧ expandPseudo .intoInner = .pass ∧
    expandPseudo .default = .zero ∧ expandPseudo .fromUnits = .fromint := ⟨rfl, rfl, rfl, rfl⟩

/-- R67: its two examples, and an operand that does not fit its form. -/
theorem test_assemble :
    assemble .fxu64d9 .cmul [3000000000, 2500000000] = some ⟨0x001A, 3000000000, 2500000000, 0⟩ ∧
    assemble .fxu64d9 (.smuli (.sint 64)) [2500000000, 10] = some ⟨0x0322, 2500000000, 10, 0⟩ ∧
    assemble .fxu64d9 (.smuli (.uint 8)) [2500000000, 256] = none ∧
    assemble .fxu64d9 .sabs [1, 2] = none := by decide

/-- R57, R67: a mnemonic with its type suffix. -/
theorem test_mnemonic : mnemonic (.smuli (.sint 64)) = "SMULI.i64" ∧ mnemonic .cmul = "CMUL" := by decide

/-- R67: decimal and hexadecimal literals, and a sign. -/
theorem test_literals :
    readLiteral ['-', '2', '5'] = some (-25) ∧ readLiteral ['0', 'x', 'f', 'F'] = some 255 ∧
    readLiteral ['-'] = none ∧ readLiteral ['1', 'a'] = none := by decide

/-! ### Witnesses: every obligation with hypotheses has concrete states and operands that meet them -/

/-- A value on a whole port, sign bits above it: the bits a form does not read are not zero. -/
def onPort (v : Int) : Port := (IntTy.sint 128).place v

/-- A request of values. -/
def asked (w : Cmd) (a b x : Int) : Request := ⟨w, onPort a, onPort b, onPort x⟩

/-- `P` holds of the request in flight and due on the unit `c`, which meets `Ready`. -/
def Meets (c : Cfg) (q : Request) (P : Cfg → Request → Prop) : Prop :=
  Ready (flying c q 1) q ∧ P c q

theorem ready_flying {c : Cfg} (hv : c.Valid) (q : Request) : Ready (flying c q 1) q := ⟨hv, 1, rfl⟩

theorem due_flying {c : Cfg} (hv : c.Valid) (q : Request) : Due (flying c q 1) q :=
  ⟨hv, rfl, 1, Nat.le_refl 1, rfl⟩

theorem valid64 : Cfg.fxu64d9.Valid := by decide

theorem validD0 : Cfg.fxu64d0.Valid := by decide

theorem step_valid {s : State} (hv : s.cfg.Valid) : step s = advance s := if_pos hv

/-- A unit that is at work on the request for `left` more steps does one of them. -/
theorem test_work : ∃ t, step (flying .fxu64d9 (asked 0x0007 0 0 0) 2) = .next t ∧
    t.inFlight = some ⟨asked 0x0007 0 0 0, 1⟩ ∧ t.response = none :=
  ⟨_, (step_valid valid64).trans rfl, rfl, rfl⟩

theorem witness_DecodeEncode :
    (Instr.fromint).wellFormed = true ∧ (Instr.cdivi (.sint 128)).wellFormed = true := ⟨rfl, rfl⟩

theorem witness_EncodeDecode :
    decode 0x0361 = .ok (.cdivi (.sint 128)) ∧ decode 0x002A = .ok .fromratio := ⟨rfl, rfl⟩

/-- A word for each reason at an edge of its range, and the legal words beside them. -/
theorem witness_IllegalReasons :
    decode 0x0401 = .error .reservedBits ∧ decode 0x002B = .error .reservedOpcode ∧
    decode 0x0183 = .error .reservedNType ∧ decode 0x0041 = .error .ntypeNotTaken ∧
    decode 0x002A = .ok .fromratio ∧ decode 0x0143 = .ok (.fromrat (.uint 128)) :=
  ⟨rfl, rfl, rfl, rfl, rfl, rfl⟩

/-- Each of the four ways to be malformed, at an edge of its range. -/
theorem witness_MalformedCommandIsIllegal :
    Due (flying .fxu64d9 (asked 0x0401 0 0 0) 1) (asked 0x0401 0 0 0) ∧
    (asked 0x0401 0 0 0).cmd.toNat / 1024 ≠ 0 ∧
    ReservedOp ((asked 0x003F 0 0 0).cmd.toNat % 64) ∧ ReservedOp ((asked 0x0000 0 0 0).cmd.toNat % 64) ∧
    ((asked 0x0183 0 0 0).cmd.toNat % 64 ∈ typedOps ∧
      (asked 0x0183 0 0 0).cmd.toNat / 64 % 8 ∈ [0, 6, 7]) ∧
    ((asked 0x0041 0 0 0).cmd.toNat % 64 ∈ plainOps ∧
      (asked 0x0041 0 0 0).cmd.toNat / 64 % 16 ≠ 0) :=
  ⟨due_flying valid64 _, by decide, by unfold ReservedOp; decide, by unfold ReservedOp; decide,
    by decide, by decide⟩

/-- An opcode of three ports, one of port B alone, and one of none. -/
theorem witness_AssembledOperandsReadBack :
    Cfg.fxu64d9.Valid ∧ (Instr.fromrat (.sint 64)).wellFormed = true ∧
    assemble .fxu64d9 (.fromrat (.sint 64)) [-5, 2] = some ⟨0x0303, 0, 0xFFFFFFFFFFFFFFFB, 2⟩ ∧
    assemble .fxu64d9 .muldiv [7, 3, 2] = some ⟨0x0010, 7, 3, 2⟩ ∧
    assemble .fxu64d9 .fromratio [4294967295] = some ⟨0x002A, 0, 4294967295, 0⟩ ∧
    assemble .fxu64d9 .zero [] = some ⟨0x0006, 0, 0, 0⟩ := by decide

theorem witness_StepRunsDecoded :
    Due (flying .fxu64d9 (asked 0x0011 1 2 0) 1) (asked 0x0011 1 2 0) ∧
    decode (asked 0x0011 1 2 0).cmd = .ok .radd := ⟨due_flying valid64 _, rfl⟩

theorem witness_FetchWordRunsNext :
    State.reset.cfg.Valid ∧ decodeTableWord 16 0x0303 = some (.fromrat (.sint 64)) := ⟨valid64, rfl⟩

/-- Reset with nothing presented, and with a request presented. -/
theorem witness_IdleUnitAccepts :
    State.reset.cfg.Valid ∧ State.reset.rst = false ∧ State.reset.inFlight = none ∧
    State.reset.request = none ∧
    ({ State.reset with request := some (asked 0x0007 0 0 0) } : State).request =
      some (asked 0x0007 0 0 0) := ⟨valid64, rfl, rfl, rfl, rfl⟩

/-- A request due at the step (`left` 1), and one that is not (`left` 2). -/
theorem witness_OneRequestAtATime :
    (∀ n, (flying .fxu64d9 (asked 0x0007 0 0 0) n).rst = false ∧
      (flying .fxu64d9 (asked 0x0007 0 0 0) n).inFlight = some ⟨asked 0x0007 0 0 0, n⟩) ∧
    (∃ t, step (flying .fxu64d9 (asked 0x0007 0 0 0) 1) = .next t) ∧
    (∃ t, step (flying .fxu64d9 (asked 0x0007 0 0 0) 2) = .next t) :=
  ⟨fun _ => ⟨rfl, rfl⟩, ⟨_, (step_valid valid64).trans rfl⟩, ⟨_, (step_valid valid64).trans rfl⟩⟩

theorem witness_PortsAfterAcceptance :
    (flying .fxu64d9 (asked 0x0007 0 0 0) 2).inFlight = some ⟨asked 0x0007 0 0 0, 2⟩ ∧
    ∃ t, step (flying .fxu64d9 (asked 0x0007 0 0 0) 2) = .next t :=
  ⟨rfl, ⟨_, (step_valid valid64).trans rfl⟩⟩

theorem witness_RatioMulLaws :
    (withRatio ⟨500000000, 1000, .uint 128, 500⟩).Valid ∧ (IntTy.uint 128).isNType = true := by decide

theorem witness_ResetAborts :
    ({ flying .fxu64d9 (asked 0x0007 0 0 0) 2 with rst := true } : State).cfg.Valid ∧
    ({ flying .fxu64d9 (asked 0x0007 0 0 0) 2 with rst := true } : State).rst = true := ⟨valid64, rfl⟩

theorem witness_InvalidConfigurationRefused :
    State.reset.cfg.Valid ∧
    ¬ ({ State.reset with cfg := ⟨64, 10 ^ 10, 10 ^ 10, [], []⟩ } : State).cfg.Valid := by decide

theorem witness_ConfigurationFixed : ∃ t, step State.reset = .next t :=
  ⟨_, (step_valid valid64).trans rfl⟩

/-- A unit whose LATENCY of this request is three steps, so that the clause about the steps before the
response has cases 0, 1 and 2; it is idle and still holds an earlier response. -/
def latencyThree : State :=
  { State.reset with
    cfg := ⟨64, 10 ^ 9, 10 ^ 9, [], [(asked 0x0007 0 0 0, 3)]⟩
    request := some (asked 0x0007 0 0 0)
    response := some ⟨.ok, 7⟩ }

theorem witness_ResponseAfterLatency :
    latencyThree.cfg.Valid ∧ latencyThree.rst = false ∧ latencyThree.inFlight = none ∧
    latencyThree.request = some (asked 0x0007 0 0 0) ∧
    latencyThree.cfg.latencyOf (asked 0x0007 0 0 0) = 3 :=
  ⟨by decide, rfl, rfl, rfl, by decide⟩

/-- With a request in flight, and with a response that is not OK pending. -/
theorem witness_ProtocolInvariantKept :
    (ProtocolInv (flying .fxu64d9 (asked 0x0007 0 0 0) 2) ∧
      ∃ t, step (flying .fxu64d9 (asked 0x0007 0 0 0) 2) = .next t) ∧
    (ProtocolInv { State.reset with response := some ⟨.none, 0⟩ } ∧
      ∃ t, step { State.reset with response := some ⟨.none, 0⟩ } = .next t) := by
  refine ⟨⟨⟨?_, ?_⟩, ⟨_, (step_valid valid64).trans rfl⟩⟩,
    ⟨⟨?_, ?_⟩, ⟨_, (step_valid valid64).trans rfl⟩⟩⟩
  · rintro f ⟨⟩
    exact ⟨by decide, rfl⟩
  · rintro p ⟨⟩
  · rintro f ⟨⟩
  · rintro p ⟨⟩ -
    rfl

/-- Two states that differ in all but the configuration and the request in flight. -/
theorem witness_ResponseIsFunctionOfRequest :
    Due (flying .fxu64d9 (asked 0x0007 0 0 0) 1) (asked 0x0007 0 0 0) ∧
    Due ({ flying .fxu64d9 (asked 0x0007 0 0 0) 0 with
      request := some zeroRequest, response := some ⟨.ok, 7⟩, draws := 3 }) (asked 0x0007 0 0 0) ∧
    ¬ DrawCase .fxu64d9 (asked 0x0007 0 0 0) ∧
    (∃ t, step (flying .fxu64d9 (asked 0x0007 0 0 0) 1) = .next t) ∧
    (∃ t, step ({ flying .fxu64d9 (asked 0x0007 0 0 0) 0 with
      request := some zeroRequest, response := some ⟨.ok, 7⟩, draws := 3 }) = .next t) := by
  refine ⟨due_flying valid64 _, ⟨valid64, rfl, 0, by decide, rfl⟩, ?_,
    ⟨_, (step_valid valid64).trans rfl⟩, ⟨_, (step_valid valid64).trans rfl⟩⟩
  rintro ⟨n, h, -⟩
  cases h

/-- PASS of 5, with the bits of A above W, and B and C, changed. -/
theorem witness_UnreadBitsIgnored :
    Due (flying .fxu64d9 ⟨0x0005, 5, 0, 0⟩ 1) ⟨0x0005, 5, 0, 0⟩ ∧
    Due (flying .fxu64d9 ⟨0x0005, 0x10000000000000005, 7, 9⟩ 1) ⟨0x0005, 0x10000000000000005, 7, 9⟩ ∧
    (flying .fxu64d9 ⟨0x0005, 5, 0, 0⟩ 1).draws =
      (flying .fxu64d9 ⟨0x0005, 0x10000000000000005, 7, 9⟩ 1).draws ∧
    (∀ i, decode 0x0005 = .ok i → AgreeAt (operandForms .fxu64d9 i).a 5 0x10000000000000005 ∧
      AgreeAt (operandForms .fxu64d9 i).b 0 7 ∧ AgreeAt (operandForms .fxu64d9 i).c 0 9) ∧
    (∃ t, step (flying .fxu64d9 ⟨0x0005, 5, 0, 0⟩ 1) = .next t) ∧
    ∃ t, step (flying .fxu64d9 ⟨0x0005, 0x10000000000000005, 7, 9⟩ 1) = .next t := by
  refine ⟨due_flying valid64 _, due_flying valid64 _, rfl, ?_,
    ⟨_, (step_valid valid64).trans rfl⟩, ⟨_, (step_valid valid64).trans rfl⟩⟩
  rintro i ⟨⟩
  exact ⟨(by decide : (5 : Port).setWidth 64 = (0x10000000000000005 : Port).setWidth 64), trivial,
    trivial⟩

/-- An answer with status OK, and one with another. -/
theorem witness_ResultUpperBitsZero :
    (∃ t p, exec .minv (flying .fxu64d9 (asked 0x0028 0 0 0) 1) = .next t ∧ t.response = some p ∧
      p.status = .ok) ∧
    (∃ t p, exec .rdiv (flying .fxu64d9 (asked 0x0019 1 0 0) 1) = .next t ∧ t.response = some p ∧
      p.status ≠ .ok) := by
  refine ⟨⟨_, _, rfl, rfl, rfl⟩, ⟨_, _, rfl, rfl, by decide⟩⟩

theorem witness_StatusesByOpcode :
    ∃ t p, exec .cdiv (flying .fxu64d9 (asked 0x001B 1 0 0) 1) = .next t ∧ t.response = some p ∧
      p.status = .none := ⟨_, _, rfl, rfl, by decide⟩

/-- A divisor of zero where the product overflows as well. -/
theorem witness_ZeroDivisorFirst :
    (Meets .fxu64d9 (asked 0x0019 9223372036854775807 0 0) fun c q =>
      c.inner.read q.b = 0 ∧ ¬ c.inner.Fits (c.inner.read q.a * c.scale)) ∧
    (Meets .fxu64d9 (asked 0x0303 0 9223372037 0) fun c q =>
      c.inner.read q.c = 0 ∧ ¬ c.inner.Fits ((IntTy.sint 64).read q.b * c.scale)) := by
  exact ⟨⟨ready_flying valid64 _, by decide⟩,
    ⟨ready_flying valid64 _, by decide⟩⟩

/-- The last value that is exact and the first that saturates, above and below. -/
theorem witness_FromIntegerSaturates :
    (Meets .fxu64d9 (asked 0x0001 9223372036 0 0) fun c q =>
      (-((2 ^ (c.width - 1) / c.div : Nat) : Int)) ≤ c.inner.read q.a ∧ c.inner.read q.a = c.inner.max / c.scale) ∧
    (Meets .fxu64d9 (asked 0x0001 (-9223372036) 0 0) fun c q =>
      c.inner.read q.a = (-((2 ^ (c.width - 1) / c.div : Nat) : Int))) ∧
    (Meets .fxu64d9 (asked 0x0001 9223372037 0 0) fun c q =>
      c.inner.max / c.scale < c.inner.read q.a) ∧
    (Meets .fxu64d9 (asked 0x0001 (-9223372037) 0 0) fun c q =>
      c.inner.read q.a < (-((2 ^ (c.width - 1) / c.div : Nat) : Int))) := by
  exact ⟨⟨ready_flying valid64 _, by decide⟩,
    ⟨ready_flying valid64 _, by decide⟩,
    ⟨ready_flying valid64 _, by decide⟩,
    ⟨ready_flying valid64 _, by decide⟩⟩

theorem witness_CheckedFromInteger :
    (Meets .fxu64d9 (asked 0x0002 9223372036 0 0) fun c q =>
      c.inner.Fits (c.inner.read q.a * c.scale)) ∧
    (Meets .fxu64d9 (asked 0x0002 9223372037 0 0) fun c q =>
      ¬ c.inner.Fits (c.inner.read q.a * c.scale)) := by
  exact ⟨⟨ready_flying valid64 _, by decide⟩,
    ⟨ready_flying valid64 _, by decide⟩⟩

theorem witness_FromRationalFaults :
    (Meets .fxu64d9 (asked 0x0303 0 5 0) fun c q =>
      c.inner.read q.c = 0) ∧
    (Meets .fxu64d9 (asked 0x0303 0 9223372037 1) fun c q =>
      c.inner.read q.c ≠ 0 ∧ ¬ c.inner.Fits (c.inner.sat ((IntTy.sint 64).read q.b) * c.scale)) ∧
    (Meets .fxu64d0 (asked 0x0303 0 (-9223372036854775808) (-1)) fun c q =>
      c.inner.sat ((IntTy.sint 64).read q.b) * c.scale = c.inner.min ∧ c.inner.read q.c = -1) ∧
    (Meets .fxu64d9 (asked 0x0303 0 9223372036 1) fun c q =>
      c.inner.read q.c ≠ 0 ∧ c.inner.Fits (c.inner.sat ((IntTy.sint 64).read q.b) * c.scale)) := by
  exact ⟨⟨ready_flying valid64 _, by decide⟩,
    ⟨ready_flying valid64 _, by decide⟩,
    ⟨ready_flying validD0 _, by decide⟩,
    ⟨ready_flying valid64 _, by decide⟩⟩

theorem witness_CheckedFromRational :
    (Meets .fxu64d9 (asked 0x0304 0 5 0) fun c q =>
      c.inner.read q.c = 0) ∧
    (Meets .fxu64d9 (asked 0x0144 0 18446744073709551616 1) fun c q =>
      ¬ c.inner.Fits ((IntTy.uint 128).read q.b)) ∧
    (Meets .fxu64d9 (asked 0x0304 0 9223372037 1) fun c q =>
      ¬ c.inner.Fits ((IntTy.sint 64).read q.b * c.scale)) ∧
    (Meets .fxu64d0 (asked 0x0304 0 (-9223372036854775808) (-1)) fun c q =>
      (IntTy.sint 64).read q.b * c.scale = c.inner.min ∧ c.inner.read q.c = -1) ∧
    (Meets .fxu64d9 (asked 0x0304 0 9223372036 1) fun c q =>
      c.inner.read q.c ≠ 0 ∧ c.inner.Fits ((IntTy.sint 64).read q.b * c.scale)) := by
  exact ⟨⟨ready_flying valid64 _, by decide⟩,
    ⟨ready_flying valid64 _, by decide⟩,
    ⟨ready_flying valid64 _, by decide⟩,
    ⟨ready_flying validD0 _, by decide⟩,
    ⟨ready_flying valid64 _, by decide⟩⟩

theorem witness_PassKeepsPattern :
    (Meets .fxu64d9 (asked 0x0005 (-1) 0 0) fun c q =>
      c.inner.read q.a = -1) := by
  exact ⟨ready_flying valid64 _, by decide⟩

theorem witness_ConstantsZeroOne :
    (Meets .fxu64d9 (asked 0x0001 1 0 0) fun c q =>
      c.inner.read q.a = 1) := by
  exact ⟨ready_flying valid64 _, by decide⟩

theorem witness_Predicates :
    (Meets .fxu64d9 (asked 0x0008 0 0 0) fun c q =>
      c.inner.read q.a = 0) ∧
    (Meets .fxu64d9 (asked 0x0009 1 0 0) fun c q =>
      0 < c.inner.read q.a) ∧
    (Meets .fxu64d9 (asked 0x000A (-1) 0 0) fun c q =>
      c.inner.read q.a < 0) := by
  exact ⟨⟨ready_flying valid64 _, by decide⟩,
    ⟨ready_flying valid64 _, by decide⟩,
    ⟨ready_flying valid64 _, by decide⟩⟩

theorem witness_CompareThreeValued :
    (Meets .fxu64d9 (asked 0x000B (-9223372036854775808) 9223372036854775807 0) fun c q =>
      c.inner.read q.a < c.inner.read q.b) ∧
    (Meets .fxu64d9 (asked 0x000B 5 5 0) fun c q =>
      c.inner.read q.a = c.inner.read q.b) ∧
    (Meets .fxu64d9 (asked 0x000B 6 5 0) fun c q =>
      c.inner.read q.b < c.inner.read q.a) := by
  exact ⟨⟨ready_flying valid64 _, by decide⟩,
    ⟨ready_flying valid64 _, by decide⟩,
    ⟨ready_flying valid64 _, by decide⟩⟩

theorem witness_MulDivFloor :
    (Meets .fxu64d9 (asked 0x0010 0 5 0) fun _ q =>
      q.c.toNat = 0) ∧
    (Meets .fxu64d9 (asked 0x0010 85070591730234615865843651857942052864 4 1) fun _ q =>
      q.c.toNat ≠ 0 ∧ q.a.toNat * q.b.toNat / q.c.toNat = 2 ^ 128) ∧
    (Meets .fxu64d9 (asked 0x0010 (-1) (-1) (-1)) fun _ q =>
      q.c.toNat ≠ 0 ∧ q.a.toNat * q.b.toNat / q.c.toNat = 2 ^ 128 - 1) := by
  exact ⟨⟨ready_flying valid64 _, by decide⟩,
    ⟨ready_flying valid64 _, by decide⟩,
    ⟨ready_flying valid64 _, by decide⟩⟩

theorem witness_RawAddSub :
    (Meets .fxu64d9 (asked 0x0011 9223372036854775807 (-9223372036854775808) 0) fun c q =>
      c.inner.Fits (c.inner.read q.a + c.inner.read q.b)) ∧
    (Meets .fxu64d9 (asked 0x0011 9223372036854775807 1 0) fun c q =>
      ¬ c.inner.Fits (c.inner.read q.a + c.inner.read q.b) ∧ 0 < c.inner.read q.a + c.inner.read q.b) ∧
    (Meets .fxu64d9 (asked 0x0011 (-9223372036854775808) (-1) 0) fun c q =>
      ¬ c.inner.Fits (c.inner.read q.a + c.inner.read q.b) ∧ c.inner.read q.a + c.inner.read q.b < 0) ∧
    (Meets .fxu64d9 (asked 0x0012 (-1) 9223372036854775807 0) fun c q =>
      c.inner.Fits (c.inner.read q.a - c.inner.read q.b)) ∧
    (Meets .fxu64d9 (asked 0x0012 0 (-9223372036854775808) 0) fun c q =>
      ¬ c.inner.Fits (c.inner.read q.a - c.inner.read q.b) ∧ 0 < c.inner.read q.a - c.inner.read q.b) ∧
    (Meets .fxu64d9 (asked 0x0012 (-9223372036854775808) 1 0) fun c q =>
      ¬ c.inner.Fits (c.inner.read q.a - c.inner.read q.b) ∧ c.inner.read q.a - c.inner.read q.b < 0) := by
  exact ⟨⟨ready_flying valid64 _, by decide⟩,
    ⟨ready_flying valid64 _, by decide⟩,
    ⟨ready_flying valid64 _, by decide⟩,
    ⟨ready_flying valid64 _, by decide⟩,
    ⟨ready_flying valid64 _, by decide⟩,
    ⟨ready_flying valid64 _, by decide⟩⟩

theorem witness_CheckedAddSub :
    (Meets .fxu64d9 (asked 0x0013 9223372036854775807 (-9223372036854775808) 0) fun c q =>
      c.inner.Fits (c.inner.read q.a + c.inner.read q.b)) ∧
    (Meets .fxu64d9 (asked 0x0013 9223372036854775807 1 0) fun c q =>
      ¬ c.inner.Fits (c.inner.read q.a + c.inner.read q.b) ∧ 0 < c.inner.read q.a + c.inner.read q.b) ∧
    (Meets .fxu64d9 (asked 0x0013 (-9223372036854775808) (-1) 0) fun c q =>
      ¬ c.inner.Fits (c.inner.read q.a + c.inner.read q.b) ∧ c.inner.read q.a + c.inner.read q.b < 0) ∧
    (Meets .fxu64d9 (asked 0x0014 (-1) 9223372036854775807 0) fun c q =>
      c.inner.Fits (c.inner.read q.a - c.inner.read q.b)) ∧
    (Meets .fxu64d9 (asked 0x0014 0 (-9223372036854775808) 0) fun c q =>
      ¬ c.inner.Fits (c.inner.read q.a - c.inner.read q.b) ∧ 0 < c.inner.read q.a - c.inner.read q.b) ∧
    (Meets .fxu64d9 (asked 0x0014 (-9223372036854775808) 1 0) fun c q =>
      ¬ c.inner.Fits (c.inner.read q.a - c.inner.read q.b) ∧ c.inner.read q.a - c.inner.read q.b < 0) := by
  exact ⟨⟨ready_flying valid64 _, by decide⟩,
    ⟨ready_flying valid64 _, by decide⟩,
    ⟨ready_flying valid64 _, by decide⟩,
    ⟨ready_flying valid64 _, by decide⟩,
    ⟨ready_flying valid64 _, by decide⟩,
    ⟨ready_flying valid64 _, by decide⟩⟩

theorem witness_SaturatingAddSub :
    (Meets .fxu64d9 (asked 0x0015 9223372036854775807 (-9223372036854775808) 0) fun c q =>
      c.inner.Fits (c.inner.read q.a + c.inner.read q.b)) ∧
    (Meets .fxu64d9 (asked 0x0015 9223372036854775807 1 0) fun c q =>
      ¬ c.inner.Fits (c.inner.read q.a + c.inner.read q.b) ∧ 0 < c.inner.read q.a + c.inner.read q.b) ∧
    (Meets .fxu64d9 (asked 0x0015 (-9223372036854775808) (-1) 0) fun c q =>
      ¬ c.inner.Fits (c.inner.read q.a + c.inner.read q.b) ∧ c.inner.read q.a + c.inner.read q.b < 0) ∧
    (Meets .fxu64d9 (asked 0x0016 (-1) 9223372036854775807 0) fun c q =>
      c.inner.Fits (c.inner.read q.a - c.inner.read q.b)) ∧
    (Meets .fxu64d9 (asked 0x0016 0 (-9223372036854775808) 0) fun c q =>
      ¬ c.inner.Fits (c.inner.read q.a - c.inner.read q.b) ∧ 0 < c.inner.read q.a - c.inner.read q.b) ∧
    (Meets .fxu64d9 (asked 0x0016 (-9223372036854775808) 1 0) fun c q =>
      ¬ c.inner.Fits (c.inner.read q.a - c.inner.read q.b) ∧ c.inner.read q.a - c.inner.read q.b < 0) := by
  exact ⟨⟨ready_flying valid64 _, by decide⟩,
    ⟨ready_flying valid64 _, by decide⟩,
    ⟨ready_flying valid64 _, by decide⟩,
    ⟨ready_flying valid64 _, by decide⟩,
    ⟨ready_flying valid64 _, by decide⟩,
    ⟨ready_flying valid64 _, by decide⟩⟩

theorem witness_AddSubVariantsAgree :
    (Meets .fxu64d9 (asked 0x0011 9223372036854775807 (-9223372036854775808) 0) fun c q =>
      c.inner.Fits (c.inner.read q.a + c.inner.read q.b)) ∧
    (Meets .fxu64d9 (asked 0x0012 (-1) 9223372036854775807 0) fun c q =>
      c.inner.Fits (c.inner.read q.a - c.inner.read q.b)) := by
  exact ⟨⟨ready_flying valid64 _, by decide⟩,
    ⟨ready_flying valid64 _, by decide⟩⟩

theorem witness_RawMultiply :
    (Meets .fxu64d9 (asked 0x0018 9223372036854775807 1 0) fun c q =>
      c.inner.Fits (c.inner.read q.a * c.inner.read q.b)) ∧
    (Meets .fxu64d9 (asked 0x0018 (-9223372036854775808) (-1) 0) fun c q =>
      ¬ c.inner.Fits (c.inner.read q.a * c.inner.read q.b)) := by
  exact ⟨⟨ready_flying valid64 _, by decide⟩,
    ⟨ready_flying valid64 _, by decide⟩⟩

theorem witness_RawDivide :
    (Meets .fxu64d9 (asked 0x0019 5 0 0) fun c q =>
      c.inner.read q.b = 0) ∧
    (Meets .fxu64d9 (asked 0x0019 9223372037 1 0) fun c q =>
      c.inner.read q.b ≠ 0 ∧ ¬ c.inner.Fits (c.inner.read q.a * c.scale)) ∧
    (Meets .fxu64d0 (asked 0x0019 (-9223372036854775808) (-1) 0) fun c q =>
      c.inner.Fits (c.inner.read q.a * c.scale) ∧ c.inner.read q.a * c.scale = c.inner.min ∧ c.inner.read q.b = -1) ∧
    (Meets .fxu64d9 (asked 0x0019 (-9223372036) (-1) 0) fun c q =>
      c.inner.read q.b ≠ 0 ∧ c.inner.Fits (c.inner.read q.a * c.scale) ∧ c.inner.read q.a * c.scale ≠ c.inner.min) := by
  exact ⟨⟨ready_flying valid64 _, by decide⟩,
    ⟨ready_flying valid64 _, by decide⟩,
    ⟨ready_flying validD0 _, by decide⟩,
    ⟨ready_flying valid64 _, by decide⟩⟩

theorem witness_CheckedMultiply :
    (Meets .fxu64d9 (asked 0x001A (-9223372036854775808) 1000000000 0) fun c q =>
      c.inner.Fits (mulQuot c (c.inner.read q.a) (c.inner.read q.b))) ∧
    (Meets .fxu64d9 (asked 0x001A (-9223372036854775808) (-1000000000) 0) fun c q =>
      ¬ c.inner.Fits (mulQuot c (c.inner.read q.a) (c.inner.read q.b))) := by
  exact ⟨⟨ready_flying valid64 _, by decide⟩,
    ⟨ready_flying valid64 _, by decide⟩⟩

theorem witness_CheckedDivide :
    (Meets .fxu64d9 (asked 0x001B (-9223372036854775808) 1000000000 0) fun c q =>
      c.inner.read q.b ≠ 0 ∧ c.inner.Fits (divQuot c (c.inner.read q.a) (c.inner.read q.b))) ∧
    (Meets .fxu64d9 (asked 0x001B (-9223372036854775808) (-1000000000) 0) fun c q =>
      c.inner.read q.b ≠ 0 ∧ ¬ c.inner.Fits (divQuot c (c.inner.read q.a) (c.inner.read q.b))) ∧
    (Meets .fxu64d9 (asked 0x001B 0 0 0) fun c q =>
      c.inner.read q.b = 0) := by
  exact ⟨⟨ready_flying valid64 _, by decide⟩,
    ⟨ready_flying valid64 _, by decide⟩,
    ⟨ready_flying valid64 _, by decide⟩⟩

theorem witness_RawAgreesWithChecked :
    (Meets .fxu64d9 (asked 0x0018 9223372036854775807 1 0) fun c q =>
      c.inner.Fits (c.inner.read q.a * c.inner.read q.b)) ∧
    (Meets .fxu64d9 (asked 0x0019 9223372036 (-1) 0) fun c q =>
      c.inner.read q.b ≠ 0 ∧ c.inner.Fits (c.inner.read q.a * c.scale) ∧ c.inner.Fits (divQuot c (c.inner.read q.a) (c.inner.read q.b))) := by
  exact ⟨⟨ready_flying valid64 _, by decide⟩,
    ⟨ready_flying valid64 _, by decide⟩⟩

theorem witness_SaturatingMultiply :
    (Meets .fxu64d9 (asked 0x001C (-9223372036854775808) 1000000000 0) fun c q =>
      c.inner.Fits (mulQuot c (c.inner.read q.a) (c.inner.read q.b))) ∧
    (Meets .fxu64d9 (asked 0x001C (-9223372036854775808) (-1000000000) 0) fun c q =>
      ¬ c.inner.Fits (mulQuot c (c.inner.read q.a) (c.inner.read q.b)) ∧ 0 < c.inner.read q.a * c.inner.read q.b) ∧
    (Meets .fxu64d9 (asked 0x001C (-9223372036854775808) 2000000000 0) fun c q =>
      ¬ c.inner.Fits (mulQuot c (c.inner.read q.a) (c.inner.read q.b)) ∧ c.inner.read q.a * c.inner.read q.b < 0) := by
  exact ⟨⟨ready_flying valid64 _, by decide⟩,
    ⟨ready_flying valid64 _, by decide⟩,
    ⟨ready_flying valid64 _, by decide⟩⟩

theorem witness_SaturatingAbs :
    (Meets .fxu64d9 (asked 0x001D (-9223372036854775808) 0 0) fun c q =>
      c.inner.read q.a = c.inner.min) ∧
    (Meets .fxu64d9 (asked 0x001D (-9223372036854775807) 0 0) fun c q =>
      c.inner.read q.a = c.inner.min + 1) := by
  exact ⟨⟨ready_flying valid64 _, by decide⟩,
    ⟨ready_flying valid64 _, by decide⟩⟩

theorem witness_SaturatingPower :
    (Meets .fxu64d9 (asked 0x001E 2000000000 18446744073709551615 0) fun c q =>
      c.inner.read q.a = 2 * c.scale ∧ q.b.toNat % 2 ^ 64 = 2 ^ 64 - 1) := by
  exact ⟨ready_flying valid64 _, by decide⟩

theorem witness_PowerCorners :
    (Meets .fxu64d9 (asked 0x001E 0 18446744073709551616 0) fun _ q =>
      q.b.toNat % 2 ^ 64 = 0) ∧
    (Meets .fxu64d9 (asked 0x001E 0 1 0) fun c q =>
      c.inner.read q.a = 0 ∧ q.b.toNat % 2 ^ 64 ≠ 0) ∧
    (Meets .fxu64d9 (asked 0x001E 1000000000 7 0) fun c q =>
      c.inner.read q.a = c.scale) ∧
    (Meets .fxu64d9 (asked 0x001E (-1000000000) 2 0) fun c q =>
      c.inner.read q.a = -c.scale ∧ q.b.toNat % 2 = 0) ∧
    (Meets .fxu64d9 (asked 0x001E (-1000000000) 3 0) fun c q =>
      c.inner.read q.a = -c.scale ∧ q.b.toNat % 2 ≠ 0) := by
  exact ⟨⟨ready_flying valid64 _, by decide⟩,
    ⟨ready_flying valid64 _, by decide⟩,
    ⟨ready_flying valid64 _, by decide⟩,
    ⟨ready_flying valid64 _, by decide⟩,
    ⟨ready_flying valid64 _, by decide⟩⟩

/-- The product in range at its edge; one too wide for N; an integer too wide for the inner type. -/
theorem witness_CheckedMultiplyInteger :
    (Meets .fxu64d9 (asked 0x0260 1000000000 (-128) 0) fun c q =>
      (c.inner.Fits ((IntTy.sint 8).read q.b) ∧ c.inner.Fits (mulQuot c (c.inner.read q.a) ((IntTy.sint 8).read q.b)) ∧ (IntTy.sint 8).Fits (mulQuot c (c.inner.read q.a) ((IntTy.sint 8).read q.b)))) ∧
    (Meets .fxu64d9 (asked 0x0260 (-1000000000) (-128) 0) fun c q =>
      ¬ (c.inner.Fits ((IntTy.sint 8).read q.b) ∧ c.inner.Fits (mulQuot c (c.inner.read q.a) ((IntTy.sint 8).read q.b)) ∧ (IntTy.sint 8).Fits (mulQuot c (c.inner.read q.a) ((IntTy.sint 8).read q.b)))) ∧
    (Meets .fxu64d9 (asked 0x0160 1000000000 18446744073709551616 0) fun c q =>
      ¬ (c.inner.Fits ((IntTy.uint 128).read q.b) ∧ c.inner.Fits (mulQuot c (c.inner.read q.a) ((IntTy.uint 128).read q.b)) ∧ (IntTy.uint 128).Fits (mulQuot c (c.inner.read q.a) ((IntTy.uint 128).read q.b)))) := by
  exact ⟨⟨ready_flying valid64 _, by decide⟩,
    ⟨ready_flying valid64 _, by decide⟩,
    ⟨ready_flying valid64 _, by decide⟩⟩

theorem witness_CheckedDivideInteger :
    (Meets .fxu64d9 (asked 0x0361 (-9223372036854775808) 1 0) fun c q =>
      c.inner.Fits ((IntTy.sint 128).read q.b) ∧ (IntTy.sint 128).read q.b ≠ 0 ∧ ¬ (c.inner.read q.a = c.inner.min ∧ (IntTy.sint 128).read q.b = -1) ∧ (IntTy.sint 128).Fits ((c.inner.read q.a).tdiv ((IntTy.sint 128).read q.b * c.scale))) ∧
    (Meets .fxu64d9 (asked 0x0361 (-9223372036854775808) (-1) 0) fun c q =>
      c.inner.read q.a = c.inner.min ∧ (IntTy.sint 128).read q.b = -1) ∧
    (Meets .fxu64d9 (asked 0x0361 1 0 0) fun _ q =>
      (IntTy.sint 128).read q.b = 0) ∧
    (Meets .fxu64d9 (asked 0x0361 1 9223372036854775808 0) fun c q =>
      ¬ c.inner.Fits ((IntTy.sint 128).read q.b)) ∧
    (Meets .fxu64d9 (asked 0x0261 128000000000 1 0) fun c q =>
      ¬ (IntTy.sint 8).Fits ((c.inner.read q.a).tdiv ((IntTy.sint 8).read q.b * c.scale))) := by
  exact ⟨⟨ready_flying valid64 _, by decide⟩,
    ⟨ready_flying valid64 _, by decide⟩,
    ⟨ready_flying valid64 _, by decide⟩,
    ⟨ready_flying valid64 _, by decide⟩,
    ⟨ready_flying valid64 _, by decide⟩⟩

theorem witness_SaturatingMultiplyInteger :
    (Meets .fxu64d9 (asked 0x0262 1000000000 (-128) 0) fun c q =>
      (c.inner.Fits ((IntTy.sint 8).read q.b) ∧ c.inner.Fits (mulQuot c (c.inner.read q.a) ((IntTy.sint 8).read q.b)) ∧ (IntTy.sint 8).Fits (mulQuot c (c.inner.read q.a) ((IntTy.sint 8).read q.b)))) ∧
    (Meets .fxu64d9 (asked 0x0262 (-1000000000) (-128) 0) fun c q =>
      ¬ (c.inner.Fits ((IntTy.sint 8).read q.b) ∧ c.inner.Fits (mulQuot c (c.inner.read q.a) ((IntTy.sint 8).read q.b)) ∧ (IntTy.sint 8).Fits (mulQuot c (c.inner.read q.a) ((IntTy.sint 8).read q.b))) ∧ 0 < (IntTy.sint 8).read q.b * c.inner.read q.a) ∧
    (Meets .fxu64d9 (asked 0x0262 1000000001 127 0) fun c q =>
      (c.inner.Fits ((IntTy.sint 8).read q.b) ∧ c.inner.Fits (mulQuot c (c.inner.read q.a) ((IntTy.sint 8).read q.b)) ∧ (IntTy.sint 8).Fits (mulQuot c (c.inner.read q.a) ((IntTy.sint 8).read q.b)))) ∧
    (Meets .fxu64d9 (asked 0x0262 2000000000 (-128) 0) fun c q =>
      ¬ (c.inner.Fits ((IntTy.sint 8).read q.b) ∧ c.inner.Fits (mulQuot c (c.inner.read q.a) ((IntTy.sint 8).read q.b)) ∧ (IntTy.sint 8).Fits (mulQuot c (c.inner.read q.a) ((IntTy.sint 8).read q.b))) ∧ (IntTy.sint 8).read q.b * c.inner.read q.a < 0) ∧
    (Meets .fxu64d9 (asked 0x0362 0 9223372036854775808 0) fun c q =>
      ¬ (c.inner.Fits ((IntTy.sint 128).read q.b) ∧ c.inner.Fits (mulQuot c (c.inner.read q.a) ((IntTy.sint 128).read q.b)) ∧ (IntTy.sint 128).Fits (mulQuot c (c.inner.read q.a) ((IntTy.sint 128).read q.b))) ∧ (IntTy.sint 128).read q.b * c.inner.read q.a = 0) := by
  exact ⟨⟨ready_flying valid64 _, by decide⟩,
    ⟨ready_flying valid64 _, by decide⟩,
    ⟨ready_flying valid64 _, by decide⟩,
    ⟨ready_flying valid64 _, by decide⟩,
    ⟨ready_flying valid64 _, by decide⟩⟩

theorem witness_SaturatingMultiplyIntegerDraw :
    (Meets .fxu64d9 (asked 0x0362 0 9223372036854775808 0) fun c q =>
      c.inner.read q.a = 0 ∧ ¬ c.inner.Fits ((IntTy.sint 128).read q.b)) := by
  exact ⟨ready_flying valid64 _, by decide⟩

theorem witness_MultiplyAccumulate :
    (Meets .fxu64d9 (asked 0x0324 0 5 0) fun c q =>
      ¬ c.inner.read q.a < 0) ∧
    (Meets .fxu64d9 (asked 0x0324 (-9223372036854775808) 5 0) fun c q =>
      c.inner.read q.a = c.inner.min) := by
  exact ⟨⟨ready_flying valid64 _, by decide⟩,
    ⟨ready_flying valid64 _, by decide⟩⟩

theorem witness_AccumulateIdentities :
    (Meets .fxu64d9 (asked 0x0324 0 (-77) 0) fun c q =>
      (IntTy.sint 64).isNType = true ∧ c.inner.read q.a = 0) ∧
    (Meets .fxu64d9 (asked 0x0324 1000000000 7 0) fun c q =>
      (IntTy.sint 64).isNType = true ∧ c.inner.read q.a = c.scale) := by
  exact ⟨⟨ready_flying valid64 _, by decide⟩,
    ⟨ready_flying valid64 _, by decide⟩⟩

theorem witness_BoundsPatterns :
    (Meets .fxu64d9 (asked 0x0028 0 0 0) fun c _ =>
      0 < c.width) := by
  exact ⟨ready_flying valid64 _, by decide⟩

theorem witness_FromRatio :
    (Meets .fxu64d9 (asked 0x002A 0 4294967295 0) fun c q =>
      q.b.toNat % 2 ^ (c.width / 2) = 2 ^ 32 - 1 ∧ (q.b.toNat % 2 ^ (c.width / 2)) * c.div < 2 ^ (c.width - 1)) := by
  exact ⟨ready_flying valid64 _, by decide⟩

/-- The other branch of FROMRATIO, which only FXU128-D19 reaches: f = 2^64 - 1. -/
theorem witness_FromRatio_max :
    Meets .fxu128d19 (asked 0x002A 0 18446744073709551615 0) (fun c q =>
      ¬ (q.b.toNat % 2 ^ (c.width / 2)) * c.div < 2 ^ (c.width - 1)) :=
  ⟨ready_flying (by decide) _, by decide⟩

/-- `500000000 * 1000` and `-500000000 * 1000` with the exact RATIO_MUL value 500 (R235). -/
theorem witness_AccumulatePurpose :
    Meets (withRatio ⟨500000000, 1000, .sint 64, 500⟩) (asked 0x0324 (-500000000) 1000 0) (fun c q =>
      c.accuracy = c.div ∧ c.inner.read q.a = -500000000 ∧ (IntTy.sint 64).read q.b = 1000 ∧
      (0 : Nat) = (-500000000 : Int).natAbs / c.div ∧ 500000000 = (-500000000 : Int).natAbs % c.div ∧
      c.scale ∣ (-500000000) * 1000 ∧
      ratioMul c 500000000 1000 (.sint 64) = ((500000000 : Nat) * (1000 : Int)).tdiv c.accuracy ∧
      (IntTy.sint 64).Fits ((0 : Nat) : Int) ∧ (IntTy.sint 64).Fits (1000 * ((0 : Nat) : Int)) ∧
      (IntTy.sint 64).Fits ((((-500000000 : Int).natAbs : Int) * 1000).tdiv c.scale)) :=
  ⟨ready_flying (by decide) _, by decide⟩

/-- Inside the caller's safe range, and outside it. -/
theorem witness_DutyDecidesFailure :
    Ready (flying .fxu64d9 (asked 0x0011 1 2 0) 1) (asked 0x0011 1 2 0) ∧
    dutyMet .radd (flying .fxu64d9 (asked 0x0011 9223372036854775807 0 0) 1) ∧
    ¬ dutyMet .radd (flying .fxu64d9 (asked 0x0011 9223372036854775807 1 0) 1) :=
  ⟨ready_flying valid64 _, by show _ ∧ _; decide, by show ¬ (_ ∧ _); decide⟩

end Sys2Proof.Tests
end

section
/-! PROOFS. The response is a function of the configuration and the request (10_state.md R30): a
meaning that takes no draw does not look at the draw count, and SMULI takes one in the draw case only. -/

namespace Sys2Proof.Machine

/-- A command in flight and due is executed by the step (30_encoding.md R63). -/
theorem step_eq_runCommand_of_due {s : State} {q : Request} (h : Due s q) :
    step s = runCommand s q.cmd := by
  obtain ⟨hv, hr, n, hn, hf⟩ := h
  simp [step, advance, hv, hr, hf, hn]

theorem runCommand_of_decode_ok (s : State) {w : Cmd} {i : Instr} (h : decode w = .ok i) :
    runCommand s w = exec i s := by
  simp [runCommand, h]

theorem runCommand_of_decode_error (s : State) {w : Cmd} {e : Illegal} (h : decode w = .error e) :
    runCommand s w = .next (s.finish .illegal) := by
  simp [runCommand, h, State.answerIllegal]

/-- A product with a zero factor is 0 in CMULI, where the other factor narrows into I (R211). -/
theorem checkedMulInt_of_mul_eq_zero {c : Cfg} (hv : c.Valid) (n : IntTy) {x o : Int}
    (ho : c.inner.Fits o) (h : x * o = 0) : checkedMulInt c n x o = some 0 := by
  rw [checkedMulInt_eq hv, h, truncDiv_zero_left, if_pos ⟨ho, zero_fits _, zero_fits n⟩]

/-- The spec names no value for SMULI exactly where x = 0 and o does not narrow into I
(45_cross_width.md R214). -/
theorem saturatingMulInt_eq_none_iff {c : Cfg} (hv : c.Valid) (n : IntTy) (x o : Int) :
    saturatingMulInt c n x o = none ↔ x = 0 ∧ ¬ c.inner.Fits o := by
  unfold saturatingMulInt
  constructor
  · intro h
    split at h
    · cases h
    · rename_i hmul
      have hsign : o.sign * x.sign = 0 := by
        split_ifs at h
        omega
      have hfit : ¬ c.inner.Fits o := fun ho => by
        have hzero : x * o = 0 := by
          rw [← Int.sign_eq_zero_iff_zero, Int.sign_mul, mul_comm, hsign]
        rw [checkedMulInt_of_mul_eq_zero hv n ho hzero] at hmul
        cases hmul
      have ho : o ≠ 0 := fun h0 => hfit (h0 ▸ zero_fits _)
      rw [← Int.sign_mul, Int.sign_eq_zero_iff_zero] at hsign
      exact ⟨(mul_eq_zero.mp hsign).resolve_left ho, hfit⟩
  · rintro ⟨rfl, hfit⟩
    rw [checkedMulInt_eq hv, if_neg fun h => hfit h.1]
    simp

/-- SMULI answers its value, where the spec names one (45_cross_width.md R213). -/
theorem execSmuli_of_value {n : IntTy} {s : State} {v : Int}
    (h : saturatingMulInt s.cfg n s.innerA (s.typedB n) = some v) :
    execSmuli n s = .next (s.finish (.ok n v)) := by
  simp [execSmuli, h]

/-- Where SMULI has a value, a meaning neither reads nor changes the draw count. -/
theorem exec_withDraws {i : Instr} {s t : State} (d : Nat)
    (hval : ∀ n, i = .smuli n → saturatingMulInt s.cfg n s.innerA (s.typedB n) ≠ none)
    (h : exec i s = .next t) : exec i { s with draws := d } = .next { t with draws := d } := by
  cases i
  case smuli n =>
    obtain ⟨v, hv⟩ := Option.ne_none_iff_exists'.mp (hval n rfl)
    cases (execSmuli_of_value hv).symm.trans h
    exact execSmuli_of_value (s := { s with draws := d }) hv
  all_goals
    cases h
    rfl

/-- Outside the draw case, SMULI on the sampled request has a value. -/
theorem saturatingMulInt_ne_none_of_not_drawCase {s : State} {q : Request} {n : IntTy}
    (hd : Due s q) (hdec : decode q.cmd = .ok (.smuli n)) (hcase : ¬ DrawCase s.cfg q) :
    saturatingMulInt s.cfg n s.innerA (s.typedB n) ≠ none := by
  obtain ⟨hv, -, k, -, hf⟩ := hd
  rw [Ne, saturatingMulInt_eq_none_iff hv, innerA_eq hf, typedB_eq hf]
  exact fun h => hcase ⟨n, hdec, h⟩

/-- Settles O20: with the draw count of the second state, the first gives the response it gave, and
the two states then agree in all that a meaning reads. -/
theorem responseIsFunctionOfRequest : Obligations.ResponseIsFunctionOfRequest := by
  intro s s' t t' q hd hd' hc hcase hs hs'
  rw [step_eq_runCommand_of_due hd] at hs
  rw [step_eq_runCommand_of_due hd'] at hs'
  cases hdec : decode q.cmd with
  | error e =>
    rw [runCommand_of_decode_error _ hdec] at hs hs'
    cases hs
    cases hs'
    rfl
  | ok i =>
    rw [runCommand_of_decode_ok _ hdec] at hs hs'
    have hredrawn := exec_withDraws s'.draws
      (fun n hi => saturatingMulInt_ne_none_of_not_drawCase hd (hi ▸ hdec) hcase) hs
    have hsampled : s.sampled = s'.sampled := by
      obtain ⟨-, -, _, -, hf⟩ := hd
      obtain ⟨-, -, _, -, hf'⟩ := hd'
      rw [sampled_eq hf, sampled_eq hf']
    obtain ⟨p, k, h, h'⟩ :=
      exec_agree i (s := { s with draws := s'.draws }) (s' := s') hc hsampled rfl
    have hp : t.response = some p :=
      congrArg State.response (Host.Outcome.next.inj (hredrawn.symm.trans h))
    have hp' : t'.response = some p :=
      congrArg State.response (Host.Outcome.next.inj (hs'.symm.trans h'))
    rw [hp, hp']

end Sys2Proof.Machine
end

section
/-! PROOFS. The worked encodings, and the answer to a malformed command word (30_encoding.md R55 to
R63, R69): the decoder rejects the word, whichever of its checks comes first, and the unit answers a
rejected word with `(ILLEGAL, 0)`. -/

namespace Sys2Proof

theorem op_toNat (w : Cmd) : w.op.toNat = w.toNat % 64 := by
  simp [Cmd.op]

theorem nt_toNat (w : Cmd) : w.nt.toNat = w.toNat / 64 % 16 := by
  simp [Cmd.nt, Nat.shiftRight_eq_div_pow]

theorem rsv_toNat (w : Cmd) : w.rsv.toNat = w.toNat / 1024 := by
  simp only [Cmd.rsv, BitVec.extractLsb'_toNat, Nat.shiftRight_eq_div_pow]
  omega

/-- Whether an entry of the opcode map takes an N type (30_encoding.md R61, R62). -/
def OpEntry.takesNType : OpEntry → Bool
  | .plain _ => false
  | .typed _ => true

/-- The reserved values and the two lists of opcodes, against the opcode map's 64 entries (R57, R58). -/
theorem opmap_kind : ∀ op : BitVec 6,
    (ReservedOp op.toNat → opmap op = none) ∧
    (op.toNat ∈ typedOps → (opmap op).map OpEntry.takesNType = some true) ∧
    (op.toNat ∈ plainOps → (opmap op).map OpEntry.takesNType = some false) := by
  unfold ReservedOp
  decide

theorem opmap_of_mem_typedOps {op : BitVec 6} (h : op.toNat ∈ typedOps) :
    ∃ mk, opmap op = some (.typed mk) := by
  obtain ⟨e, he, hk⟩ := Option.map_eq_some_iff.mp ((opmap_kind op).2.1 h)
  cases e with
  | plain i => cases hk
  | typed mk => exact ⟨mk, he⟩

theorem opmap_of_mem_plainOps {op : BitVec 6} (h : op.toNat ∈ plainOps) :
    ∃ i, opmap op = some (.plain i) := by
  obtain ⟨e, he, hk⟩ := Option.map_eq_some_iff.mp ((opmap_kind op).2.2 h)
  cases e with
  | plain i => exact ⟨i, he⟩
  | typed mk => cases hk

/-- The reserved width codes, whatever the sign bit (R60, R61). -/
theorem decodeNType_eq_none_iff : ∀ nt : BitVec 4,
    decodeNType nt = none ↔ nt.toNat % 8 ∈ [0, 6, 7] := by
  decide

/-- R59: the first check of R63. -/
theorem decode_of_rsv_ne_zero {w : Cmd} (h : w.rsv ≠ 0) : decode w = .error .reservedBits :=
  if_pos h

section
variable {w : Cmd} (hrsv : w.rsv = 0)
include hrsv

/-- R58. -/
theorem decode_of_opmap_none (h : opmap w.op = none) : decode w = .error .reservedOpcode := by
  simp [decode, hrsv, h]

/-- R61. -/
theorem decode_of_typed_of_decodeNType_none {mk : IntTy → Instr}
    (h : opmap w.op = some (.typed mk)) (hnt : decodeNType w.nt = none) :
    decode w = .error .reservedNType := by
  simp [decode, hrsv, h, hnt]

/-- R62. -/
theorem decode_of_plain_of_nt_ne_zero {i : Instr}
    (h : opmap w.op = some (.plain i)) (hnt : w.nt ≠ 0) : decode w = .error .ntypeNotTaken := by
  simpa [decode, hrsv, h] using hnt

end

/-- A malformed word is rejected. It may be malformed in two ways at once, RSV not 0 being one of
them, and then the reason is the one R63 checks first. -/
theorem decode_eq_error_of_malformed {w : Cmd}
    (h : w.toNat / 1024 ≠ 0 ∨ ReservedOp (w.toNat % 64) ∨
      (w.toNat % 64 ∈ typedOps ∧ w.toNat / 64 % 8 ∈ [0, 6, 7]) ∨
      (w.toNat % 64 ∈ plainOps ∧ w.toNat / 64 % 16 ≠ 0)) :
    ∃ e, decode w = .error e := by
  by_cases hrsv : w.rsv = 0
  case neg => exact ⟨_, decode_of_rsv_ne_zero hrsv⟩
  have hcode : w.toNat / 64 % 8 = w.nt.toNat % 8 := by
    rw [nt_toNat]
    omega
  rw [← rsv_toNat, ← op_toNat, ← nt_toNat, hcode] at h
  rcases h with hbits | hop | ⟨hop, hnt⟩ | ⟨hop, hnt⟩
  · exact absurd (congrArg BitVec.toNat hrsv) hbits
  · exact ⟨_, decode_of_opmap_none hrsv ((opmap_kind w.op).1 hop)⟩
  · obtain ⟨mk, hmk⟩ := opmap_of_mem_typedOps hop
    exact ⟨_, decode_of_typed_of_decodeNType_none hrsv hmk ((decodeNType_eq_none_iff w.nt).mpr hnt)⟩
  · obtain ⟨i, hi⟩ := opmap_of_mem_plainOps hop
    exact ⟨_, decode_of_plain_of_nt_ne_zero hrsv hi fun h0 => hnt (congrArg BitVec.toNat h0)⟩

end Sys2Proof

namespace Sys2Proof.Machine

/-- Settles O6: a malformed word does not decode, and a due word that does not decode is answered
`(ILLEGAL, 0)`. -/
theorem malformedCommandIsIllegal : Obligations.MalformedCommandIsIllegal := by
  intro s q hdue hbad
  obtain ⟨e, he⟩ := decode_eq_error_of_malformed hbad
  calc step s = runCommand s q.cmd := step_eq_runCommand_of_due hdue
    _ = .next (s.finish .illegal) := runCommand_of_decode_error s he
    _ = .next (given s .illegal 0) := rfl

/-- Settles O1: the decoder evaluated on each of the ten words. -/
theorem workedEncodings : Obligations.WorkedEncodings :=
  ⟨rfl, rfl, rfl, rfl, rfl, rfl, rfl, rfl, rfl, rfl⟩

end Sys2Proof.Machine
end

section
/-! PROOFS. Construction, constants, predicates and compare (40_construction.md R101 to R111): what
placing gives on a port for the values these instructions answer, where `n * DIV` leaves the inner
width, and the instructions' next states put together from these. -/

namespace Sys2Proof

section Place
variable (t : IntTy)

/-- A natural number below 2^width(T) is placed in plain binary, also where T is signed
(00_scope.md R13). -/
theorem place_natCast {n : Nat} (h : n < 2 ^ t.width) :
    t.place (n : Int) = BitVec.ofNat 128 n := by
  apply BitVec.eq_of_toNat_eq
  simp [IntTy.place, IntTy.enc, BitVec.ofInt_natCast, Nat.mod_eq_of_lt h]

@[simp] theorem place_zero : t.place 0 = 0 := place_natCast t (two_pow_pos _)

theorem place_one (h : 0 < t.width) : t.place 1 = 1 :=
  place_natCast t (Nat.one_lt_two_pow h.ne')

/-- -1 is all ones in the bits of the type, whatever its sign. -/
theorem place_neg_one : t.place (-1) = BitVec.ofNat 128 (2 ^ t.width - 1) := by
  have henc : t.enc (-1) = BitVec.allOnes t.width := by
    simp [IntTy.enc, BitVec.ofInt_neg, BitVec.neg_one_eq_allOnes]
  apply BitVec.eq_of_toNat_eq
  simp [IntTy.place, henc]

/-- A value read from a port and placed again keeps the pattern of the bits read. -/
theorem place_read (p : Port) : t.place (t.read p) = (p.setWidth t.width).setWidth 128 := by
  unfold IntTy.place IntTy.enc IntTy.read IntTy.val
  split
  · rw [BitVec.ofInt_toInt]
  · rw [BitVec.ofInt_natCast, BitVec.ofNat_toNat, BitVec.setWidth_eq]

/-- The sign of an exact difference, on a port (40_construction.md R111). -/
theorem place_sign_sub (h : 0 < t.width) (x y : Int) :
    t.place (x - y).sign =
      if x < y then BitVec.ofNat 128 (2 ^ t.width - 1) else if x = y then 0 else 1 := by
  rcases lt_trichotomy x y with hlt | rfl | hgt
  · rw [Int.sign_eq_neg_one_of_neg (by omega), place_neg_one, if_pos hlt]
  · simp
  · rw [Int.sign_eq_one_of_pos (by omega), place_one t h, if_neg (by omega), if_neg (by omega)]

end Place

theorem inner_width (c : Cfg) : c.inner.width = c.width := rfl

section Scale
variable {c : Cfg} (h : c.Valid)
include h

/-- DIV is a W-bit pattern. -/
theorem valid_div_lt : c.div < 2 ^ c.inner.width := by
  have hmax : (c.div : Int) ≤ ((2 ^ (c.width - 1) : Nat) : Int) - 1 := (valid_scale_fits h).2
  have hpow : 2 ^ (c.width - 1) ≤ 2 ^ c.width := Nat.pow_le_pow_right (by decide) (by omega)
  rw [inner_width]
  omega

/-- `n * DIV` is above MAX_W exactly above `floor_div(MAX_W, DIV)` (40_construction.md R101). -/
theorem inner_max_lt_mul_scale_iff (n : Int) :
    c.inner.max < n * c.scale ↔ c.inner.max / c.scale < n :=
  (Int.ediv_lt_iff_lt_mul (valid_scale_pos h)).symm

/-- `n * DIV` is below MIN_W exactly below `-floor(2^(W-1) / DIV)` (40_construction.md R101). -/
theorem mul_scale_lt_inner_min_iff (n : Int) :
    n * c.scale < c.inner.min ↔ n < -((2 ^ (c.width - 1) / c.div : Nat) : Int) := by
  have hmin : c.inner.min = -((2 ^ (c.width - 1) : Nat) : Int) := rfl
  rw [hmin, lt_neg, ← neg_mul, ← Int.ediv_lt_iff_lt_mul (valid_scale_pos h), lt_neg (a := n),
    Int.natCast_div, ← Cfg.scale]

/-- `sat_I(n * DIV)` by the bounds of 40_construction.md R101. -/
theorem sat_mul_scale (n : Int) :
    c.inner.sat (n * c.scale) =
      if n < -((2 ^ (c.width - 1) / c.div : Nat) : Int) then c.inner.min
      else if c.inner.max / c.scale < n then c.inner.max
      else n * c.scale := by
  simp only [IntTy.sat, mul_scale_lt_inner_min_iff h, inner_max_lt_mul_scale_iff h]

end Scale
end Sys2Proof

namespace Sys2Proof.Machine

theorem finish_ok (s : State) (t : IntTy) (v : Int) :
    s.finish (.ok t v) = given s .ok (t.place v) := rfl

/-- A value that fits is given, NONE otherwise (42_add_sub.md R153). -/
theorem finish_checked (s : State) (t : IntTy) (v : Int) :
    s.finish (.checked t v) =
      if t.Fits v then given s .ok (t.place v) else given s .none 0 := by
  by_cases hfit : t.Fits v
  · rw [checked_of_fits hfit, if_pos hfit, finish_ok]
  · rw [checked_of_not_fits hfit, if_neg hfit]
    rfl

/-- A boolean is given as 1 or 0 at `R[0]` (40_construction.md R108). -/
theorem finish_ofBool (s : State) (p : Prop) [Decidable p] :
    s.finish (.ofBool (decide p)) = given s .ok (if p then 1 else 0) := by
  by_cases hp : p
  · simp [Answer.ofBool, hp, finish_ok, place_one boolTy (by decide)]
  · simp [Answer.ofBool, hp, finish_ok]

/-- FROMINT gives `sat_I(n * DIV)` (40_construction.md R101). -/
theorem exec_fromint {s : State} {q : Request} (h : Ready s q) :
    exec .fromint s = .next (given s .ok
      (s.cfg.inner.place (s.cfg.inner.sat (s.cfg.inner.read q.a * s.cfg.scale)))) := by
  obtain ⟨-, _, hf⟩ := h
  rw [← innerA_eq hf]
  rfl

/-- ONE gives DIV (40_construction.md R107). -/
theorem exec_one (s : State) :
    exec .one s = .next (given s .ok (s.cfg.inner.place s.cfg.scale)) := rfl

/-- Settles O27: the two tests of `sat_I(n * DIV)` are the bounds of R101. -/
theorem fromIntegerSaturates : Obligations.FromIntegerSaturates := by
  refine ⟨rfl, fun s q h => ?_⟩
  rw [exec_fromint h, sat_mul_scale h.1]

/-- Settles O31: PASS places the value it reads. -/
theorem passKeepsPattern : Obligations.PassKeepsPattern := by
  refine ⟨rfl, rfl, rfl, fun s q ⟨_, _, hf⟩ => ?_⟩
  calc exec .pass s = .next (s.finish (.ok s.cfg.inner s.innerA)) := rfl
    _ = .next (given s .ok ((q.a.setWidth s.cfg.width).setWidth 128)) := by
      rw [finish_ok, innerA_eq hf, place_read, inner_width]

/-- Settles O34: CMP places the sign of the exact difference. -/
theorem compareThreeValued : Obligations.CompareThreeValued := by
  refine ⟨rfl, fun s q ⟨hv, _, hf⟩ => ?_⟩
  have hexec : exec .cmp s = .next (s.finish (.ok s.cfg.inner (s.innerA - s.innerB).sign)) := rfl
  rw [hexec, finish_ok, innerA_eq hf, innerB_eq hf, place_sign_sub _ (valid_width_pos hv),
    inner_width]

/-- Settles O28: CFROMINT is the checked answer of `n * DIV`. -/
theorem checkedFromInteger : Obligations.CheckedFromInteger := by
  refine ⟨rfl, fun s q ⟨_, _, hf⟩ => ?_⟩
  have hexec : exec .cfromint s =
      .next (s.finish (.checked s.cfg.inner (s.innerA * s.cfg.scale))) := rfl
  rw [hexec, finish_checked, innerA_eq hf]

/-- Settles O32: DIV fits the inner width, so ONE places it whole and FROMINT 1 does not clamp it. -/
theorem constantsZeroOne : Obligations.ConstantsZeroOne := by
  refine ⟨rfl, rfl, rfl, fun s q h => ⟨?zero, ?one, fun hread => ?fromintOne⟩⟩
  case zero =>
    calc exec .zero s = .next (s.finish (.ok s.cfg.inner 0)) := rfl
      _ = .next (given s .ok 0) := by rw [finish_ok, place_zero]
  case one => rw [exec_one, Cfg.scale, place_natCast _ (valid_div_lt h.1)]
  case fromintOne => rw [exec_fromint h, exec_one, hread, one_mul, sat_of_fits (valid_scale_fits h.1)]

/-- Settles O33: each predicate is the boolean answer of its test on the inner value. -/
theorem predicates : Obligations.Predicates := by
  refine ⟨rfl, rfl, rfl, fun s q ⟨_, _, hf⟩ => ?_⟩
  simp only [← innerA_eq hf, ← finish_ofBool]
  exact ⟨rfl, rfl, rfl⟩

end Sys2Proof.Machine
end

section
/-! PROOFS. MULDIV (41_widened_primitive.md R130, R131): where the primitive fails and what it gives
otherwise, MULDIV's next state in the two cases, and the two put together on the whole ports. -/

namespace Sys2Proof.Machine

/-- `opU(p, 128)` is the whole port (00_scope.md R17). -/
theorem unsignedOf_port (p : Port) : unsignedOf 128 p = p.toNat := by
  rw [unsignedOf_eq, Nat.mod_eq_of_lt p.isLt]

theorem mulDiv_eq_none {a b c : Nat} (h : c = 0 ∨ 2 ^ 128 ≤ a * b / c) : mulDiv a b c = none := by
  refine Option.eq_none_iff_forall_ne_some.mpr fun q hq => ?_
  obtain ⟨hc, rfl, hlt⟩ := mulDiv_eq_some.mp hq
  exact h.elim hc (Nat.not_le.mpr hlt)

theorem exec_muldiv_of_none {s : State} {q : Request} {n : Nat} (hf : s.inFlight = some ⟨q, n⟩)
    (h : mulDiv q.a.toNat q.b.toNat q.c.toNat = none) :
    exec .muldiv s = .next (given s .none 0) := by
  simp only [exec, execMuldiv, sampled_eq hf, unsignedOf_port, h]
  rfl

/-- A value of the primitive is given in plain binary on the whole of R. -/
theorem exec_muldiv_of_some {s : State} {q : Request} {n v : Nat} (hf : s.inFlight = some ⟨q, n⟩)
    (h : mulDiv q.a.toNat q.b.toNat q.c.toNat = some v) :
    exec .muldiv s = .next (given s .ok (BitVec.ofNat 128 v)) := by
  obtain ⟨-, -, hlt⟩ := mulDiv_eq_some.mp h
  simp only [exec, execMuldiv, sampled_eq hf, unsignedOf_port, h]
  rw [State.answer, finish_ok, place_natCast (.uint 128) hlt]

/-- Settles O35: the case split is that of the primitive, FAIL or the quotient. -/
theorem mulDivFloor : Obligations.MulDivFloor := by
  refine ⟨rfl, fun s q ⟨_, _, hf⟩ => ?_⟩
  split
  case isTrue hfail => exact exec_muldiv_of_none hf (mulDiv_eq_none hfail)
  case isFalse hok =>
    obtain ⟨hc, hlt⟩ := not_or.mp hok
    exact exec_muldiv_of_some hf (mulDiv_eq_some.mpr ⟨hc, rfl, Nat.not_le.mp hlt⟩)

end Sys2Proof.Machine
end

section
/-! PROOFS. Add and subtract (42_add_sub.md R151 to R156): the raw answer put on the ports, and the
bound `sat_T` chooses, told by the sign of the exact result. -/

namespace Sys2Proof

/-- 0 fits T, so a value that does not fit is above `max_T` if it is positive and below `min_T` if
not (42_add_sub.md R155). -/
theorem sat_eq_ite_fits (t : IntTy) (v : Int) :
    t.sat v = if t.Fits v then v else if 0 < v then t.max else t.min := by
  obtain ⟨hmin, hmax⟩ := zero_fits t
  by_cases hfit : t.Fits v
  · rw [if_pos hfit, sat_of_fits hfit]
  · rw [if_neg hfit]
    split
    case isTrue hpos => exact sat_of_gt (by omega)
    case isFalse hnonpos => exact sat_of_lt (by omega)

end Sys2Proof

namespace Sys2Proof.Machine

/-- A value that fits is given, FAULT_OVF otherwise (42_add_sub.md R151). -/
theorem finish_raw (s : State) (t : IntTy) (v : Int) :
    s.finish (.raw t v) =
      if t.Fits v then given s .ok (t.place v) else given s .faultOvf 0 := by
  by_cases hfit : t.Fits v
  · rw [raw_of_fits hfit, if_pos hfit, finish_ok]
  · rw [raw_of_not_fits hfit, if_neg hfit]
    rfl

/-- Settles O36: RADD and RSUB are the raw answers of the exact sum and difference. -/
theorem rawAddSub : Obligations.RawAddSub := by
  refine ⟨rfl, rfl, fun s q ⟨_, _, hf⟩ => ?_⟩
  rw [← innerA_eq hf, ← innerB_eq hf, ← finish_raw, ← finish_raw]
  exact ⟨rfl, rfl⟩

/-- Settles O37: CADD and CSUB are the checked answers of the exact sum and difference. -/
theorem checkedAddSub : Obligations.CheckedAddSub := by
  refine ⟨rfl, rfl, fun s q ⟨_, _, hf⟩ => ?_⟩
  rw [← innerA_eq hf, ← innerB_eq hf, ← finish_checked, ← finish_checked]
  exact ⟨rfl, rfl⟩

/-- Settles O38: SADD and SSUB place `sat_I` of the exact sum and difference. -/
theorem saturatingAddSub : Obligations.SaturatingAddSub := by
  refine ⟨rfl, rfl, fun s q ⟨_, _, hf⟩ => ?_⟩
  rw [← innerA_eq hf, ← innerB_eq hf, ← sat_eq_ite_fits, ← sat_eq_ite_fits]
  exact ⟨rfl, rfl⟩

end Sys2Proof.Machine
end

section
/-! PROOFS. Multiply and divide (43_mul_div.md R171 to R174): CMUL and CDIV answer as the checked
answer of the exact truncated value, and RMUL and RDIV fault at the W-bit step that overflows. -/

namespace Sys2Proof.Machine

/-- A value that succeeds exactly when it fits T, and FAIL otherwise, is answered as the checked
answer of that value (43_mul_div.md R170). -/
theorem ofOption_ite_fits (t : IntTy) (v : Int) :
    Answer.ofOption t (if t.Fits v then some v else none) = .checked t v := by
  by_cases hfit : t.Fits v
  · rw [if_pos hfit, checked_of_fits hfit, Answer.ofOption]
  · rw [if_neg hfit, checked_of_not_fits hfit, Answer.ofOption]

section Quotients
variable {c : Cfg} (h : c.Valid)
include h

theorem ofOption_checkedMul (x y : Int) :
    Answer.ofOption c.inner (checkedMul c x y) = .checked c.inner (mulQuot c x y) := by
  rw [checkedMul_eq h, ofOption_ite_fits, truncDiv_eq_tdiv, mulQuot]

theorem checkedDiv_zero (x : Int) : checkedDiv c x 0 = none := by
  rw [checkedDiv_eq h, if_pos rfl]

theorem ofOption_checkedDiv (x : Int) {y : Int} (hy : y ≠ 0) :
    Answer.ofOption c.inner (checkedDiv c x y) = .checked c.inner (divQuot c x y) := by
  rw [checkedDiv_eq h, if_neg hy, ofOption_ite_fits, truncDiv_eq_tdiv, divQuot]

/-- Where `n * DIV` fits I and d is not 0, the W-bit division overflows only at `MIN_W / -1`
(43_mul_div.md R172). -/
theorem rawScaledDiv_of_fits {n d : Int} (hd : d ≠ 0) (hp : c.inner.Fits (n * c.scale)) :
    rawScaledDiv c n d =
      if n * c.scale = c.inner.min ∧ d = -1 then .faultOvf else .ok c.inner (divQuot c n d) := by
  rw [rawScaledDiv, if_neg hd, if_pos hp, Answer.raw]
  simp only [truncDiv_fits_iff h hp hd, ite_not]
  rw [truncDiv_eq_tdiv, divQuot]

end Quotients

/-- The causes of the raw rescaled division in the order of its tests (60_exceptions.md R272). -/
theorem finish_rawScaledDiv (s : State) (h : s.cfg.Valid) (n d : Int) :
    s.finish (rawScaledDiv s.cfg n d) =
      if d = 0 then given s .faultDiv0 0
      else if ¬ s.cfg.inner.Fits (n * s.cfg.scale) then given s .faultOvf 0
      else if n * s.cfg.scale = s.cfg.inner.min ∧ d = -1 then given s .faultOvf 0
      else given s .ok (s.cfg.inner.place (divQuot s.cfg n d)) := by
  by_cases hd : d = 0
  · rw [rawScaledDiv, if_pos hd, if_pos hd]
    rfl
  by_cases hp : s.cfg.inner.Fits (n * s.cfg.scale)
  · rw [rawScaledDiv_of_fits h hd hp, if_neg hd, if_neg (not_not_intro hp), apply_ite s.finish,
      finish_ok]
    rfl
  · rw [rawScaledDiv, if_neg hd, if_neg hp, if_neg hd, if_pos hp]
    rfl

/-- Settles O41: RDIV is the raw rescaled division of its operands. -/
theorem rawDivide : Obligations.RawDivide := by
  refine ⟨rfl, fun s q ⟨hv, _, hf⟩ => ?_⟩
  rw [← innerA_eq hf, ← innerB_eq hf, ← finish_rawScaledDiv s hv]
  rfl

/-- Settles O42: CMUL is the checked answer of `trunc_div(x*y, DIV)`. -/
theorem checkedMultiply : Obligations.CheckedMultiply := by
  refine ⟨rfl, fun s q ⟨hv, _, hf⟩ => ?_⟩
  rw [← innerA_eq hf, ← innerB_eq hf, ← finish_checked, ← ofOption_checkedMul hv]
  rfl

/-- Settles O43: CDIV is NONE at y = 0, and else the checked answer of `trunc_div(x*DIV, y)`. -/
theorem checkedDivide : Obligations.CheckedDivide := by
  refine ⟨rfl, fun s q ⟨hv, _, hf⟩ => ?_⟩
  have hexec : exec .cdiv s =
      .next (s.finish (.ofOption s.cfg.inner (checkedDiv s.cfg s.innerA s.innerB))) := rfl
  rw [hexec, ← innerA_eq hf, ← innerB_eq hf]
  by_cases hy : s.innerB = 0
  · rw [if_neg fun hok => hok.1 hy, hy, checkedDiv_zero hv]
    rfl
  · rw [ofOption_checkedDiv hv _ hy, finish_checked]
    simp only [ne_eq, hy, not_false_eq_true, true_and]

/-- Settles O40: only the W-bit product is checked, whatever the rescaled result. -/
theorem rawMultiply : Obligations.RawMultiply := by
  refine ⟨rfl, fun s q ⟨_, _, hf⟩ => ?_⟩
  have hexec : exec .rmul s = .next (s.finish
      (if s.cfg.inner.Fits (s.innerA * s.innerB) then
        .ok s.cfg.inner (truncDiv (s.innerA * s.innerB) s.cfg.scale)
      else .faultOvf)) := rfl
  rw [hexec, ← innerA_eq hf, ← innerB_eq hf, apply_ite s.finish, finish_ok, truncDiv_eq_tdiv,
    mulQuot]
  rfl

end Sys2Proof.Machine
end

section
/-! PROOFS. The saturating clamp logic (44_saturating.md R191 to R193): the bound SMUL takes told by the
sign of the exact product, SABS as a magnitude, and SPOW's loop over the bits of the exponent as the
rounds of `powState`, of which those above the highest set bit leave the result. -/

namespace Sys2Proof

section MulQuot
variable {c : Cfg} (h : c.Valid)
include h

/-- A truncated quotient by DIV that is not 0 has the sign of the product. -/
theorem mulQuot_pos_iff {x y : Int} (hne : mulQuot c x y ≠ 0) : 0 < mulQuot c x y ↔ 0 < x * y := by
  have hscale := valid_scale_pos h
  rw [mulQuot, ← truncDiv_eq_tdiv] at hne ⊢
  refine ⟨Machine.truncDiv_pos_imp hscale, fun hpos => ?_⟩
  by_contra hnonpos
  have hneg := Machine.truncDiv_neg_imp hscale (lt_of_le_of_ne (not_lt.mp hnonpos) hne)
  omega

/-- `sat_I(trunc_div(x*y, DIV))` takes its bound by the sign of the product (44_saturating.md R191). -/
theorem sat_mulQuot (x y : Int) :
    c.inner.sat (mulQuot c x y) =
      if c.inner.Fits (mulQuot c x y) then mulQuot c x y
      else if 0 < x * y then c.inner.max else c.inner.min := by
  rw [sat_eq_ite_fits]
  by_cases hfit : c.inner.Fits (mulQuot c x y)
  · rw [if_pos hfit, if_pos hfit]
  · have hne : mulQuot c x y ≠ 0 := fun h0 => hfit (h0 ▸ zero_fits _)
    simp only [mulQuot_pos_iff h hne]

end MulQuot

/-- A magnitude by the test of the sign (44_saturating.md R192). -/
theorem ite_neg_eq_natAbs (x : Int) : (if x < 0 then -x else x) = (x.natAbs : Int) := by
  split <;> omega

end Sys2Proof

namespace Sys2Proof.Machine

/-- SMUL's value in the terms of `powState` (44_saturating.md R191). -/
theorem saturatingMul_eq_sat_mulQuot {c : Cfg} (h : c.Valid) (x y : Int) :
    saturatingMul c x y = c.inner.sat (mulQuot c x y) := by
  rw [saturatingMul_eq h, truncDiv_eq_tdiv, mulQuot]

/-- Settles O45: SMUL places `sat_I(trunc_div(x*y, DIV))`, whose bound is told by the product's sign. -/
theorem saturatingMultiply : Obligations.SaturatingMultiply := by
  refine ⟨rfl, fun s q ⟨hv, _, hf⟩ => ?_⟩
  have hexec : exec .smul s =
      .next (s.finish (.ok s.cfg.inner (saturatingMul s.cfg s.innerA s.innerB))) := rfl
  rw [hexec, finish_ok, saturatingMul_eq_sat_mulQuot hv, innerA_eq hf, innerB_eq hf, sat_mulQuot hv]

/-- Settles O46: where x is not MIN_W, SABS negates a negative value, which is its magnitude. -/
theorem saturatingAbs : Obligations.SaturatingAbs := by
  refine ⟨rfl, fun s q ⟨_, _, hf⟩ => ?_⟩
  have hexec : exec .sabs s = .next (s.finish (.ok s.cfg.inner
      (if s.innerA = s.cfg.inner.min then s.cfg.inner.max
       else if s.innerA < 0 then -s.innerA else s.innerA))) := rfl
  rw [hexec, finish_ok, ite_neg_eq_natAbs, innerA_eq hf]

/-- The bits of a number below 2^n end at n. -/
theorem bitLength_le_iff {e n : Nat} : bitLength e ≤ n ↔ e < 2 ^ n := by
  unfold bitLength
  split
  case isTrue hzero => simp [hzero]
  case isFalse hne => rw [Nat.succ_le_iff, Nat.log2_lt hne]

/-- One round of `powState` multiplies and squares by SMUL, as SPOW's loop does. -/
theorem powState_succ {c : Cfg} (h : c.Valid) (x : Int) (e k : Nat) :
    powState c x e (k + 1) =
      (if e.testBit k then saturatingMul c (powState c x e k).1 (powState c x e k).2
        else (powState c x e k).1,
       saturatingMul c (powState c x e k).2 (powState c x e k).2) := by
  simp only [saturatingMul_eq_sat_mulQuot h, powState]

/-- SPOW's loop, entered after k rounds, makes the rounds of the next n bits. -/
theorem powLoop_range' {c : Cfg} (h : c.Valid) (x : Int) (e n k : Nat) :
    powLoop c ((List.range' k n).map fun i => e.testBit i)
      (powState c x e k).1 (powState c x e k).2 = (powState c x e (k + n)).1 := by
  induction n generalizing k with
  | zero => rfl
  | succ n ih =>
    have hnext := ih (k + 1)
    rw [powState_succ h, Nat.succ_add_eq_add_succ] at hnext
    exact hnext

/-- SPOW's value is the result after `bitlength(e)` rounds, also for e = 0 (44_saturating.md R193). -/
theorem saturatingPow_eq_powState {c : Cfg} (h : c.Valid) (x : Int) (e : Nat) :
    saturatingPow c x e = (powState c x e (bitLength e)).1 := by
  unfold saturatingPow
  split
  case isTrue hzero =>
    subst hzero
    rfl
  case isFalse =>
    have hloop := powLoop_range' h x e (bitLength e) 0
    rwa [Nat.zero_add, ← List.range_eq_range'] at hloop

/-- A round above the highest set bit squares acc and keeps the result (44_saturating.md R193). -/
theorem powState_fst_of_bitLength_le (c : Cfg) (x : Int) {e n : Nat} (hn : bitLength e ≤ n) :
    (powState c x e n).1 = (powState c x e (bitLength e)).1 := by
  induction n, hn using Nat.le_induction with
  | base => rfl
  | succ k hk ih =>
    have hbit : e.testBit k = false := Nat.testBit_lt_two_pow (bitLength_le_iff.mp hk)
    simp only [powState, hbit, Bool.false_eq_true, if_false, ih]

/-- Settles O47: the exponent is below 2^64, so 64 rounds give what its `bitlength` rounds give. -/
theorem saturatingPower : Obligations.SaturatingPower := by
  refine ⟨rfl, fun s q ⟨hv, _, hf⟩ => ?_⟩
  have hbits : bitLength (q.b.toNat % 2 ^ 64) ≤ 64 :=
    bitLength_le_iff.mpr (Nat.mod_lt _ (two_pow_pos 64))
  have hexec : exec .spow s = .next (s.finish (.ok s.cfg.inner
      (saturatingPow s.cfg s.innerA (unsignedOf 64 s.sampled.b)))) := rfl
  rw [hexec, finish_ok, innerA_eq hf, sampled_eq hf, unsignedOf_eq, saturatingPow_eq_powState hv,
    powState_fst_of_bitLength_le _ _ hbits]

end Sys2Proof.Machine
end

section
/-! PROOFS. Cross-width multiply and divide (45_cross_width.md R211, R212): the command word of an
opcode that takes an N type, and CMULI's and CDIVI's value or FAIL put on the ports. -/

namespace Sys2Proof

/-- NT above OP, RSV zero (30_encoding.md R55): on all pairs of fields. -/
theorem commandWord_eq_shiftLeft_or : ∀ (nt : BitVec 4) (op : BitVec 6),
    commandWord nt op = nt.setWidth 16 <<< 6 ||| op.setWidth 16 := by
  decide

/-- The command word of an instruction that carries the N type `n` (30_encoding.md R61). -/
theorem encode_eq_typedWord {i : Instr} {n : IntTy} (h : i.ntField = encodeNType n) :
    encode i = typedWord n (i.opcode.setWidth 16) := by
  rw [encode, h, commandWord_eq_shiftLeft_or, typedWord]

end Sys2Proof

namespace Sys2Proof.Machine

/-- A value is given where its condition holds, NONE otherwise (45_cross_width.md R211, R212). -/
theorem finish_ofOption_ite (s : State) (t : IntTy) (p : Prop) [Decidable p] (v : Int) :
    s.finish (.ofOption t (if p then some v else none)) =
      if p then given s .ok (t.place v) else given s .none 0 := by
  by_cases hp : p
  · rw [if_pos hp, if_pos hp, Answer.ofOption, finish_ok]
  · rw [if_neg hp, if_neg hp]
    rfl

section Exec
variable {s : State} {q : Request} (h : Ready s q) (n : IntTy)
include h

/-- CMULI gives `trunc_div(x*o, DIV)` where o narrows into I and the product into I and N (R211). -/
theorem exec_cmuli :
    exec (.cmuli n) s = .next
      (if s.cfg.inner.Fits (n.read q.b) ∧
          s.cfg.inner.Fits (mulQuot s.cfg (s.cfg.inner.read q.a) (n.read q.b)) ∧
          n.Fits (mulQuot s.cfg (s.cfg.inner.read q.a) (n.read q.b))
       then given s .ok (n.place (mulQuot s.cfg (s.cfg.inner.read q.a) (n.read q.b)))
       else given s .none 0) := by
  obtain ⟨hv, _, hf⟩ := h
  have hexec : exec (.cmuli n) s =
      .next (s.finish (.ofOption n (checkedMulInt s.cfg n s.innerA (s.typedB n)))) := rfl
  rw [hexec, innerA_eq hf, typedB_eq hf, checkedMulInt_eq hv, finish_ofOption_ite,
    truncDiv_eq_tdiv, ← mulQuot]

/-- CDIVI gives the one truncating division by `o*DIV`, whose first step, by o, fails in I only at
o = 0 and at `MIN_W / -1` (R212). -/
theorem exec_cdivi :
    exec (.cdivi n) s = .next
      (if s.cfg.inner.Fits (n.read q.b) ∧ n.read q.b ≠ 0 ∧
          ¬ (s.cfg.inner.read q.a = s.cfg.inner.min ∧ n.read q.b = -1) ∧
          n.Fits ((s.cfg.inner.read q.a).tdiv (n.read q.b * s.cfg.scale))
       then given s .ok (n.place ((s.cfg.inner.read q.a).tdiv (n.read q.b * s.cfg.scale)))
       else given s .none 0) := by
  obtain ⟨hv, _, hf⟩ := h
  have hexec : exec (.cdivi n) s =
      .next (s.finish (.ofOption n (checkedDivInt s.cfg n s.innerA (s.typedB n)))) := rfl
  rw [hexec, innerA_eq hf, typedB_eq hf, checkedDivInt_eq hv n (read_fits _ _),
    finish_ofOption_ite, truncDiv_eq_tdiv]

end Exec

/-- Settles O49: CMULI's condition is `MulIntFits`. -/
theorem checkedMultiplyInteger : Obligations.CheckedMultiplyInteger :=
  ⟨fun _ => encode_eq_typedWord rfl, fun _ _ n h =>
    ⟨fun hfit => (exec_cmuli h n).trans (congrArg _ (if_pos hfit)),
     fun hfail => (exec_cmuli h n).trans (congrArg _ (if_neg hfail))⟩⟩

/-- Settles O50: the two truncating divisions of CDIVI are one. -/
theorem checkedDivideInteger : Obligations.CheckedDivideInteger :=
  ⟨fun _ => encode_eq_typedWord rfl, fun _ _ n h => exec_cdivi h n⟩

end Sys2Proof.Machine
end

section
/-! PROOFS. Multiply-accumulate (46_accumulate.md R232, R233): SMAC's value with the sign test the
other way round, and the excess of a whole multiple of ONE, which has no fractional part. -/

namespace Sys2Proof

/-- The narrowest N type is 8 bits wide (30_encoding.md R60), so every N type holds 1. -/
theorem one_fits_of_isNType {n : IntTy} (h : n.isNType = true) : n.Fits 1 := by
  have hwidth : 2 ≤ n.width := by
    simp only [IntTy.isNType, Bool.or_eq_true, beq_iff_eq] at h
    omega
  have hsigned : 2 ^ 1 ≤ 2 ^ (n.width - 1) := Nat.pow_le_pow_right (by decide) (by omega)
  have hunsigned : 2 ^ 1 ≤ 2 ^ n.width := Nat.pow_le_pow_right (by decide) (by omega)
  unfold IntTy.Fits IntTy.min IntTy.max
  split <;> omega

end Sys2Proof

namespace Sys2Proof.Machine

/-- SMAC gives its value (46_accumulate.md R232). -/
theorem exec_smac {s : State} {q : Request} (h : Ready s q) (n : IntTy) :
    exec (.smac n) s = .next (given s .ok
      (n.place (smacValue s.cfg n (s.cfg.inner.read q.a) (n.read q.b)))) := by
  obtain ⟨-, _, hf⟩ := h
  rw [← innerA_eq hf, ← typedB_eq hf]
  rfl

/-- Step 6 of R232 by the test of a negative x. -/
theorem smacValue_eq_ite_neg (c : Cfg) (n : IntTy) (x y : Int) :
    smacValue c n x y =
      if x < 0 then n.sat (y - smacExcess c n x y) else n.sat (y + smacExcess c n x y) := by
  unfold smacValue
  simp only [← not_lt, ite_not]

/-- A whole number k of ONEs has no fractional part, so RATIO_MUL adds 0 to `sat_N(y * k)` by its law
L2 (46_accumulate.md R231). -/
theorem smacExcess_natCast_mul_scale {c : Cfg} (h : c.Valid) {n : IntTy} {k : Nat}
    (hk : n.Fits (k : Int)) (y : Int) : smacExcess c n (k * c.scale) y = n.sat (y * k) := by
  have hdiv : 0 < c.div := Int.natCast_pos.mp (valid_scale_pos h)
  have hparts : ((k : Int) * c.scale).natAbs = k * c.div := Int.natAbs_natCast (k * c.div)
  rw [smacExcess, hparts, floorDiv, floorMod, Nat.mul_div_cancel k hdiv, Nat.mul_mod_left,
    ratioMul_of_zero_parts h, add_zero, sat_of_fits hk, sat_of_fits (sat_fits n _)]

/-- SMAC of a whole number k of ONEs adds `sat_N(y * k)`. -/
theorem smacValue_natCast_mul_scale {c : Cfg} (h : c.Valid) {n : IntTy} {k : Nat}
    (hk : n.Fits (k : Int)) (y : Int) :
    smacValue c n (k * c.scale) y = n.sat (y + n.sat (y * k)) := by
  have hx : 0 ≤ (k : Int) * c.scale := mul_nonneg k.cast_nonneg (valid_scale_pos h).le
  rw [smacValue, if_pos hx, smacExcess_natCast_mul_scale h hk]

/-- SMAC(ZERO, y) is y (46_accumulate.md R233). -/
theorem smacValue_zero {c : Cfg} (h : c.Valid) {n : IntTy} {y : Int} (hy : n.Fits y) :
    smacValue c n 0 y = y := by
  have hzero := smacValue_natCast_mul_scale h (k := 0) (zero_fits n) y
  rwa [Nat.cast_zero, zero_mul, mul_zero, sat_of_fits (zero_fits n), add_zero, sat_of_fits hy]
    at hzero

/-- SMAC(ONE, y) is the saturated double of y, where N holds 1 (46_accumulate.md R233). -/
theorem smacValue_scale {c : Cfg} (h : c.Valid) {n : IntTy} (h1 : n.Fits 1) {y : Int}
    (hy : n.Fits y) : smacValue c n c.scale y = n.sat (y + y) := by
  have hone := smacValue_natCast_mul_scale h (k := 1) h1 y
  rwa [Nat.cast_one, one_mul, mul_one, sat_of_fits hy] at hone

/-- Settles O54: the excess is `smacExcess`, whose steps are those of R232. -/
theorem multiplyAccumulate : Obligations.MultiplyAccumulate := by
  refine ⟨fun _ => encode_eq_typedWord rfl, fun s q n h => ⟨_, rfl, ?_⟩⟩
  rw [exec_smac h, smacValue_eq_ite_neg]
  rfl

/-- Settles O55: ZERO and ONE are 0 and 1 whole ONEs. -/
theorem accumulateIdentities : Obligations.AccumulateIdentities := by
  intro s q n h hn
  refine ⟨fun hzero => ?_, fun hone => ?_⟩
  · rw [exec_smac h, hzero, smacValue_zero h.1 (read_fits n q.b)]
  · rw [exec_smac h, hone, smacValue_scale h.1 (one_fits_of_isNType hn) (read_fits n q.b)]

end Sys2Proof.Machine
end

section
/-! PROOFS. Bounds and ratio conversion (47_bounds_conversion.md R250 to R252): the patterns of MIN_W
and MAX_W, and FROMRATIO's quotient, which is a natural number below 2^(W-1), in plain binary. -/

namespace Sys2Proof

section Inner
variable (c : Cfg)

/-- A natural number fits I exactly where it leaves the sign bit clear (00_scope.md R14). -/
theorem inner_fits_natCast_iff (n : Nat) : c.inner.Fits (n : Int) ↔ n < 2 ^ (c.width - 1) := by
  simp only [Cfg.inner, IntTy.Fits, IntTy.min, IntTy.max, if_true]
  omega

theorem place_inner_natCast {n : Nat} (h : n < 2 ^ (c.width - 1)) :
    c.inner.place (n : Int) = BitVec.ofNat 128 n :=
  place_natCast c.inner (h.trans_le (Nat.pow_le_pow_right two_pos (Nat.sub_le c.width 1)))

theorem inner_max_eq_natCast : c.inner.max = ((2 ^ (c.width - 1) - 1 : Nat) : Int) :=
  (Int.natCast_pred_of_pos (two_pow_pos _)).symm

theorem place_inner_max : c.inner.place c.inner.max = BitVec.ofNat 128 (2 ^ (c.width - 1) - 1) := by
  rw [inner_max_eq_natCast, place_inner_natCast c (Nat.sub_one_lt (two_pow_pos _).ne')]

/-- MIN_W is the sign bit alone (47_bounds_conversion.md R250). -/
theorem place_inner_min (h : 0 < c.width) :
    c.inner.place c.inner.min = BitVec.ofNat 128 (2 ^ (c.width - 1)) := by
  calc c.inner.place c.inner.min
    _ = (BitVec.intMin c.width).setWidth 128 := by
      rw [BitVec.intMin_eq_neg_two_pow, ← Nat.cast_two, ← Nat.cast_pow]
      rfl
    _ = BitVec.ofNat 128 (2 ^ (c.width - 1)) := by
      apply BitVec.eq_of_toNat_eq
      rw [BitVec.toNat_setWidth, BitVec.toNat_intMin_of_pos h, BitVec.toNat_ofNat]

end Inner
end Sys2Proof

namespace Sys2Proof.Machine

/-- The quotient of naturals needs no sign, and it is at most `f * DIV`, so it fits where that does
(47_bounds_conversion.md R252). -/
theorem place_ratioValue (c : Cfg) (f : Nat) :
    c.inner.place (ratioValue c f) =
      if f * c.div < 2 ^ (c.width - 1) then BitVec.ofNat 128 (f * c.div / c.accuracy)
      else BitVec.ofNat 128 (2 ^ (c.width - 1) - 1) := by
  have hprod : (f : Int) * c.scale = ((f * c.div : Nat) : Int) := (Nat.cast_mul f c.div).symm
  simp only [ratioValue, hprod, inner_fits_natCast_iff]
  split
  case isTrue hfit =>
    have hquot : truncDiv ((f * c.div : Nat) : Int) (c.accuracy : Int) =
        ((f * c.div / c.accuracy : Nat) : Int) := by
      rw [truncDiv_eq_tdiv, Int.ofNat_tdiv]
    rw [hquot, place_inner_natCast c ((Nat.div_le_self _ _).trans_lt hfit)]
  case isFalse => exact place_inner_max c

/-- FROMRATIO gives its value of the low W/2 bits of B (47_bounds_conversion.md R252). -/
theorem exec_fromratio {s : State} {q : Request} (h : Ready s q) :
    exec .fromratio s = .next (given s .ok
      (s.cfg.inner.place (ratioValue s.cfg (q.b.toNat % 2 ^ (s.cfg.width / 2))))) := by
  obtain ⟨-, _, hf⟩ := h
  rw [← unsignedOf_eq, ← sampled_eq hf]
  rfl

/-- Settles O58: FROMRATIO places `ratioValue`. -/
theorem fromRatio : Obligations.FromRatio := by
  refine ⟨rfl, fun s q f h hread => ?_⟩
  rw [exec_fromratio h, ← hread, place_ratioValue]

/-- Settles O57: MINV and MAXV place MIN_W and MAX_W. -/
theorem boundsPatterns : Obligations.BoundsPatterns := by
  refine ⟨rfl, rfl, fun s q h => ⟨?minv, ?maxv⟩⟩
  case minv =>
    calc exec .minv s = .next (s.finish (.ok s.cfg.inner s.cfg.inner.min)) := rfl
      _ = .next (given s .ok (BitVec.ofNat 128 (2 ^ (s.cfg.width - 1)))) := by
        rw [finish_ok, place_inner_min s.cfg (valid_width_pos h.1)]
  case maxv =>
    calc exec .maxv s = .next (s.finish (.ok s.cfg.inner s.cfg.inner.max)) := rfl
      _ = .next (given s .ok (BitVec.ofNat 128 (2 ^ (s.cfg.width - 1) - 1))) := by
        rw [finish_ok, place_inner_max]

end Sys2Proof.Machine
end

section
/-! PROOFS. The step and its configuration (00_scope.md R11, 70_reset_and_hazards.md R300): by
the cases of `step_cases`. -/

namespace Sys2Proof.Machine

/-- Settles O16: in each case of a step, the next state is an update that leaves `cfg` alone. -/
theorem configurationFixed : Obligations.ConfigurationFixed := by
  intro s t h
  obtain ⟨-, ⟨-, rfl⟩ | ⟨-, f, -, -, rfl⟩ | ⟨-, f, -, -, s', a, hs', rfl⟩ | ⟨-, -, q, -, rfl⟩ |
    ⟨-, -, -, rfl⟩⟩ := step_cases h
  · exact resetUnit_cfg s
  · exact work_cfg s f
  · rw [finish_cfg]
    obtain rfl | rfl := hs'
    · rfl
    · exact drawn_cfg s
  · exact accept_cfg s q
  · rfl

end Sys2Proof.Machine
end

section
/-! PROOFS. The decoder and the encoder (30_encoding.md R55 to R63): what the decoder accepts and the
words that break each check, the opcode map and the N-type field against their encodings, and the two
directions of the round trip put together from these. -/

namespace Sys2Proof

/-- What a decoded word says (30_encoding.md R63): an opcode without an N type and NT zero, or one with
an N type and a width code that is not reserved. -/
theorem decode_eq_ok_iff {w : Cmd} {i : Instr} :
    decode w = .ok i ↔
      w.rsv = 0 ∧ ((opmap w.op = some (.plain i) ∧ w.nt = 0) ∨
        ∃ mk n, opmap w.op = some (.typed mk) ∧ decodeNType w.nt = some n ∧ mk n = i) := by
  constructor
  · intro h
    unfold decode at h
    split at h
    · cases h
    · rename_i hrsv
      refine ⟨not_not.mp hrsv, ?_⟩
      split at h
      · cases h
      · rename_i j hop
        split at h
        · rename_i hnt
          cases h
          exact .inl ⟨hop, hnt⟩
        · cases h
      · rename_i mk hop
        split at h
        · cases h
        · rename_i n hnt
          cases h
          exact .inr ⟨mk, n, hop, hnt, rfl⟩
  · rintro ⟨hrsv, ⟨hop, hnt⟩ | ⟨mk, n, hop, hnt, rfl⟩⟩
    · simp [decode, hrsv, hop, hnt]
    · simp [decode, hrsv, hop, hnt]

/-- The words that break a check of R63 and pass the checks before it. -/
def Cmd.Breaks (w : Cmd) : Illegal → Prop
  | .reservedBits => w.rsv ≠ 0
  | .reservedOpcode => w.rsv = 0 ∧ opmap w.op = none
  | .reservedNType => w.rsv = 0 ∧ (∃ mk, opmap w.op = some (.typed mk)) ∧ decodeNType w.nt = none
  | .ntypeNotTaken => w.rsv = 0 ∧ (∃ i, opmap w.op = some (.plain i)) ∧ w.nt ≠ 0

theorem decode_eq_error_iff {w : Cmd} {e : Illegal} : decode w = .error e ↔ w.Breaks e := by
  constructor
  · intro h
    unfold decode at h
    split at h
    · rename_i hrsv
      cases h
      exact hrsv
    · rename_i hrsv
      have hrsv := not_not.mp hrsv
      split at h
      · rename_i hop
        cases h
        exact ⟨hrsv, hop⟩
      · rename_i i hop
        split at h
        · cases h
        · rename_i hnt
          cases h
          exact ⟨hrsv, ⟨i, hop⟩, hnt⟩
      · rename_i mk hop
        split at h
        · rename_i hnt
          cases h
          exact ⟨hrsv, ⟨mk, hop⟩, hnt⟩
        · cases h
  · intro h
    cases e with
    | reservedBits => exact decode_of_rsv_ne_zero h
    | reservedOpcode => exact decode_of_opmap_none h.1 h.2
    | reservedNType =>
      obtain ⟨hrsv, ⟨_, hop⟩, hnt⟩ := h
      exact decode_of_typed_of_decodeNType_none hrsv hop hnt
    | ntypeNotTaken =>
      obtain ⟨hrsv, ⟨_, hop⟩, hnt⟩ := h
      exact decode_of_plain_of_nt_ne_zero hrsv hop hnt

/-- Decoding an N type undoes encoding it, on the ten N types (30_encoding.md R60). -/
theorem decodeNType_encodeNType {n : IntTy} (h : n.isNType = true) :
    decodeNType (encodeNType n) = some n := by
  obtain ⟨signed, width⟩ := n
  simp only [IntTy.isNType, Bool.or_eq_true, beq_iff_eq] at h
  rcases h with (((rfl | rfl) | rfl) | rfl) | rfl <;> cases signed <;> rfl

/-- The other direction, on the 16 NT fields. -/
theorem encodeNType_of_decodeNType_eq_some :
    ∀ (nt : BitVec 4), ∀ n ∈ decodeNType nt, n.isNType = true ∧ encodeNType n = nt := by
  decide

/-- An entry of the opcode map without an N type is the instruction the encoder gives that opcode. -/
theorem opcode_of_opmap_plain {op : BitVec 6} {i : Instr} (h : opmap op = some (.plain i)) :
    i.opcode = op ∧ i.ntField = 0 ∧ i.wellFormed = true := by
  unfold opmap at h
  split at h <;> cases h
  all_goals
    rename_i hop
    exact ⟨BitVec.eq_of_toNat_eq hop.symm, rfl, rfl⟩

theorem opcode_of_opmap_typed {op : BitVec 6} {mk : IntTy → Instr}
    (h : opmap op = some (.typed mk)) (n : IntTy) :
    (mk n).opcode = op ∧ (mk n).ntField = encodeNType n ∧ (mk n).wellFormed = n.isNType := by
  unfold opmap at h
  split at h <;> cases h
  all_goals
    rename_i hop
    exact ⟨BitVec.eq_of_toNat_eq hop.symm, rfl, rfl⟩

/-- Every instruction stands in the opcode map at its opcode, with the NT field of its kind. -/
theorem opmap_opcode (i : Instr) :
    (opmap i.opcode = some (.plain i) ∧ i.ntField = 0) ∨
      ∃ mk n, opmap i.opcode = some (.typed mk) ∧ mk n = i ∧ i.ntField = encodeNType n ∧
        i.wellFormed = n.isNType := by
  cases i
  case fromrat n => exact .inr ⟨.fromrat, n, rfl, rfl, rfl, rfl⟩
  case cfromrat n => exact .inr ⟨.cfromrat, n, rfl, rfl, rfl, rfl⟩
  case cmuli n => exact .inr ⟨.cmuli, n, rfl, rfl, rfl, rfl⟩
  case cdivi n => exact .inr ⟨.cdivi, n, rfl, rfl, rfl, rfl⟩
  case smuli n => exact .inr ⟨.smuli, n, rfl, rfl, rfl, rfl⟩
  case smac n => exact .inr ⟨.smac, n, rfl, rfl, rfl, rfl⟩
  all_goals exact .inl ⟨rfl, rfl⟩

/-- A word whose RSV is zero is the command word of its two other fields (30_encoding.md R55). -/
theorem commandWord_nt_op {w : Cmd} (h : w.rsv = 0#6) : commandWord w.nt w.op = w := by
  have hhigh : w.extractLsb' 10 6 ++ w.extractLsb' 6 4 = w.extractLsb' 6 10 :=
    BitVec.extractLsb'_append_extractLsb'_eq_extractLsb' rfl
  have hword : w.extractLsb' 6 10 ++ w.extractLsb' 0 6 = w.extractLsb' 0 16 :=
    BitVec.extractLsb'_append_extractLsb'_eq_extractLsb' rfl
  rw [commandWord, ← h, Cmd.rsv, Cmd.nt, Cmd.op, hhigh, hword, BitVec.extractLsb'_eq_self]

section Fields
variable (w : Cmd)

theorem rsv_eq_zero_iff : w.rsv = 0 ↔ w.toNat / 1024 = 0 := by
  rw [← rsv_toNat]
  exact BitVec.toNat_inj.symm

theorem nt_eq_zero_iff : w.nt = 0 ↔ w.toNat / 64 % 16 = 0 := by
  rw [← nt_toNat]
  exact BitVec.toNat_inj.symm

/-- The width code is the low three bits of NT (30_encoding.md R60). -/
theorem nt_toNat_mod_eight : w.nt.toNat % 8 = w.toNat / 64 % 8 := by
  rw [nt_toNat]
  omega

end Fields

/-- The entries of the opcode map by kind: the other directions of `opmap_kind` (R57, R58, R61). -/
theorem kind_of_opmap : ∀ op : BitVec 6,
    (opmap op = none → ReservedOp op.toNat) ∧
    ((opmap op).map OpEntry.takesNType = some true → op.toNat ∈ typedOps) ∧
    ((opmap op).map OpEntry.takesNType = some false → op.toNat ∈ plainOps) := by
  unfold ReservedOp
  decide

theorem opmap_eq_none_iff (op : BitVec 6) : opmap op = none ↔ ReservedOp op.toNat :=
  ⟨(kind_of_opmap op).1, (opmap_kind op).1⟩

theorem exists_opmap_typed_iff (op : BitVec 6) :
    (∃ mk, opmap op = some (.typed mk)) ↔ op.toNat ∈ typedOps :=
  ⟨fun ⟨_, h⟩ => (kind_of_opmap op).2.1 (congrArg (Option.map OpEntry.takesNType) h),
    opmap_of_mem_typedOps⟩

theorem exists_opmap_plain_iff (op : BitVec 6) :
    (∃ i, opmap op = some (.plain i)) ↔ op.toNat ∈ plainOps :=
  ⟨fun ⟨_, h⟩ => (kind_of_opmap op).2.2 (congrArg (Option.map OpEntry.takesNType) h),
    opmap_of_mem_plainOps⟩

/-- The width codes that are not reserved, whatever the sign bit (30_encoding.md R60). -/
theorem exists_decodeNType_iff : ∀ nt : BitVec 4,
    (∃ n, decodeNType nt = some n) ↔ nt.toNat % 8 ∈ [1, 2, 3, 4, 5] := by
  simp only [← Option.isSome_iff_exists]
  decide

/-- Decoding succeeds on the words of the opcodes, by kind (30_encoding.md R63). -/
theorem exists_decode_ok_iff (w : Cmd) :
    (∃ i, decode w = .ok i) ↔
      w.rsv = 0 ∧ (((∃ i, opmap w.op = some (.plain i)) ∧ w.nt = 0) ∨
        ((∃ mk, opmap w.op = some (.typed mk)) ∧ ∃ n, decodeNType w.nt = some n)) := by
  simp only [decode_eq_ok_iff]
  constructor
  · rintro ⟨i, hrsv, ⟨hop, hnt⟩ | ⟨mk, n, hop, hnt, -⟩⟩
    · exact ⟨hrsv, .inl ⟨⟨i, hop⟩, hnt⟩⟩
    · exact ⟨hrsv, .inr ⟨⟨mk, hop⟩, n, hnt⟩⟩
  · rintro ⟨hrsv, ⟨⟨i, hop⟩, hnt⟩ | ⟨⟨mk, hop⟩, n, hnt⟩⟩
    · exact ⟨i, hrsv, .inl ⟨hop, hnt⟩⟩
    · exact ⟨mk n, hrsv, .inr ⟨mk, n, hop, hnt, rfl⟩⟩

end Sys2Proof

namespace Sys2Proof.Machine

/-- Settles O3: the fields of the encoding are the instruction's, at its entry of the opcode map. -/
theorem decodeEncode : Obligations.DecodeEncode := by
  intro i hwf
  obtain ⟨hrsv, hop, hnt⟩ := Laws.Encoding.commandWord_fields i.ntField i.opcode
  rw [decode_eq_ok_iff, encode, hop, hnt]
  refine ⟨hrsv, ?_⟩
  obtain hplain | ⟨mk, n, hmap, hmk, hfield, htype⟩ := opmap_opcode i
  · exact .inl hplain
  · rw [hfield]
    exact .inr ⟨mk, n, hmap, decodeNType_encodeNType (htype.symm.trans hwf), hmk⟩

/-- Settles O4: RSV is zero, and OP and NT are those of the entry the decoder found. -/
theorem encodeDecode : Obligations.EncodeDecode := by
  intro w i h
  obtain ⟨hrsv, ⟨hmap, hzero⟩ | ⟨mk, n, hmap, htype, rfl⟩⟩ := decode_eq_ok_iff.mp h
  · obtain ⟨hop, hnt, hwf⟩ := opcode_of_opmap_plain hmap
    refine ⟨hwf, ?_⟩
    rw [encode, hop, hnt, ← hzero, commandWord_nt_op hrsv]
  · obtain ⟨hop, hnt, hwf⟩ := opcode_of_opmap_typed hmap n
    obtain ⟨hn, hfield⟩ := encodeNType_of_decodeNType_eq_some w.nt n htype
    refine ⟨hwf.trans hn, ?_⟩
    rw [encode, hop, hnt, hfield, commandWord_nt_op hrsv]

/-- Settles O5: each reason is the check that is broken, in R63's order, and the checks are read off the
fields as numbers. -/
theorem illegalReasons : Obligations.IllegalReasons := by
  intro w
  simp only [decode_eq_error_iff, exists_decode_ok_iff, Cmd.Breaks, ne_eq, rsv_eq_zero_iff,
    nt_eq_zero_iff, opmap_eq_none_iff, exists_opmap_typed_iff, exists_opmap_plain_iff,
    decodeNType_eq_none_iff, exists_decodeNType_iff, nt_toNat_mod_eight, op_toNat, and_self]

/-- Settles O2: the fields as arithmetic. -/
theorem commandFields : Obligations.CommandFields :=
  fun w => ⟨op_toNat w, nt_toNat w, rsv_toNat w⟩

end Sys2Proof.Machine
end

section
/-! PROOFS. The step, branch by branch (20_memory.md R43, R44; 70_reset_and_hazards.md R301 to R306),
and what follows of the protocol: acceptance, work, response and reset. -/

namespace Sys2Proof.Machine

section Branches
variable {s : State} (hv : s.cfg.Valid)
include hv

theorem step_of_rst (hr : s.rst = true) : step s = .next s.resetUnit := by
  simp [step, advance, hv, hr]

/-- A request in flight with more than one step left comes one step nearer (00_scope.md R9). -/
theorem step_of_working {f : Flight} (hr : s.rst = false) (hf : s.inFlight = some f)
    (hl : 1 < f.left) : step s = .next (s.work f) := by
  simp [step, advance, hv, hr, hf, Nat.not_le.mpr hl]

theorem step_of_presented {q : Request} (hr : s.rst = false) (hf : s.inFlight = none)
    (hq : s.request = some q) : step s = .next (s.accept q) := by
  simp [step, advance, hv, hr, hf, hq]

theorem step_of_idle (hr : s.rst = false) (hf : s.inFlight = none) (hq : s.request = none) :
    step s = .next s := by
  simp [step, advance, hv, hr, hf, hq]

/-- A request in flight is due where at most one step is left. -/
theorem due_of_left_le_one {f : Flight} (hr : s.rst = false) (hf : s.inFlight = some f)
    (hl : f.left ≤ 1) : Due s f.req :=
  ⟨hv, hr, f.left, hl, hf⟩

end Branches

/-- A due request is answered. -/
theorem step_of_due {s : State} {q : Request} (h : Due s q) :
    ∃ s' a, (s' = s ∨ s' = s.drawn) ∧ step s = .next (s'.finish a) := by
  rw [step_eq_runCommand_of_due h]
  exact runCommand_finish s q.cmd

/-- Settles O8: a due request that decodes runs its meaning. -/
theorem stepRunsDecoded : Obligations.StepRunsDecoded :=
  fun s _ _ hdue hdec => (step_eq_runCommand_of_due hdue).trans (runCommand_of_decode_ok s hdec)

/-- What the table's numbering decodes, the decoder decodes (30_encoding.md R56). -/
theorem decode_of_decodeTableWord {nbits w : Nat} {i : Instr} (h : decodeTableWord nbits w = some i) :
    decode (BitVec.ofNat 16 (w % 2 ^ nbits)) = .ok i := by
  unfold decodeTableWord at h
  split at h
  · rename_i j hdec
    cases h
    exact hdec
  · cases h

/-- Settles O9: the placed command is due, and the word is the encoding of what it decodes to. -/
theorem fetchWordRunsNext : Obligations.FetchWordRunsNext := by
  intro s w i hv hw
  have hdec := decode_of_decodeTableWord hw
  have hdue : Due (s.withFetchWord 16 w) ⟨_, s.driven.a, s.driven.b, s.driven.c⟩ :=
    ⟨hv, rfl, 1, le_rfl, rfl⟩
  refine ⟨stepRunsDecoded _ _ i hdue hdec, ?_⟩
  rw [(encodeDecode _ i hdec).2]
  rfl

/-- Settles O11: the two branches of an idle unit. -/
theorem idleUnitAccepts : Obligations.IdleUnitAccepts :=
  fun _ hv hr hf => ⟨fun _ hq => step_of_presented hv hr hf hq, step_of_idle hv hr hf⟩

/-- Settles O10: at reset the unit is idle. -/
theorem resetState : Obligations.ResetState := by
  have hv : State.reset.cfg.Valid := by decide
  refine ⟨rfl, rfl, rfl, step_of_idle hv rfl rfl rfl, fun q => ?_⟩
  exact ⟨_, step_of_presented (s := { State.reset with request := some q }) hv rfl rfl rfl, rfl,
    _, valid_latency_pos hv q, rfl⟩

/-- Settles O14: the reset branch of the step. -/
theorem resetAborts : Obligations.ResetAborts := fun _ hv hr => step_of_rst hv hr

/-- Settles O12: of the cases of a step, those of a request in flight are work and response. -/
theorem oneRequestAtATime : Obligations.OneRequestAtATime := by
  intro s t f hr hf h
  obtain ⟨-, ⟨hr', -⟩ | ⟨-, f', hf', hl, rfl⟩ | ⟨-, f', hf', hl, s', a, hs', rfl⟩ | ⟨-, hf', -⟩ |
    ⟨-, hf', -⟩⟩ := step_cases h
  · simp [hr] at hr'
  · cases hf.symm.trans hf'
    exact ⟨rfl, .inl ⟨hl, rfl, rfl⟩⟩
  · cases hf.symm.trans hf'
    refine ⟨?_, .inr ⟨hl, rfl, a.response, rfl⟩⟩
    obtain rfl | rfl := hs' <;> rfl
  · cases hf.symm.trans hf'
  · cases hf.symm.trans hf'

/-- The command in flight does not see the ports (20_memory.md R44). -/
theorem runCommand_withRequest {s t : State} {w : Cmd} (r : Option Request)
    (h : runCommand s w = .next t) :
    runCommand { s with request := r } w = .next { t with request := r } := by
  cases hdec : decode w with
  | error e =>
    rw [runCommand_of_decode_error _ hdec] at h ⊢
    cases h
    rfl
  | ok i =>
    rw [runCommand_of_decode_ok _ hdec] at h ⊢
    obtain ⟨p, d, hs, hs'⟩ := exec_agree i (s := s) (s' := { s with request := r }) rfl rfl rfl
    cases h.symm.trans hs
    exact hs'

/-- Settles O13: each branch of a step with a request in flight leaves the ports alone. -/
theorem portsAfterAcceptance : Obligations.PortsAfterAcceptance := by
  intro s t f r hf h
  obtain ⟨hv, ⟨hr, rfl⟩ | ⟨hr, f', hf', hl, rfl⟩ | ⟨hr, f', hf', hl, -⟩ | ⟨-, hf', -⟩ |
    ⟨-, hf', -⟩⟩ := step_cases h
  · exact step_of_rst (s := { s with request := r }) hv hr
  · exact step_of_working (s := { s with request := r }) hv hr hf' hl
  · rw [step_eq_runCommand_of_due (due_of_left_le_one hv hr hf' hl)] at h
    have hdue := due_of_left_le_one (s := { s with request := r }) hv hr hf' hl
    exact (step_eq_runCommand_of_due hdue).trans (runCommand_withRequest r h)
  · cases hf.symm.trans hf'
  · cases hf.symm.trans hf'

/-- A DIV within MAX_W has an exponent below 39, so the model's bound on it excludes no configuration
(log 17). -/
theorem exponent_lt {c : Cfg} {k : Nat} (hw : c.width = 32 ∨ c.width = 64 ∨ c.width = 128)
    (hk : c.div = 10 ^ k) (hmax : c.scale ≤ c.inner.max) : k < 39 := by
  have hwidth : c.width - 1 ≤ 127 := by omega
  have hpow : 2 ^ (c.width - 1) ≤ 2 ^ 127 := Nat.pow_le_pow_right (by decide) hwidth
  have hdiv : c.div < 2 ^ (c.width - 1) := (inner_fits_natCast_iff c c.div).mp ⟨?_, hmax⟩
  · refine (Nat.pow_lt_pow_iff_right (a := 10) (by decide)).mp ?_
    calc 10 ^ k = c.div := hk.symm
      _ < 2 ^ (c.width - 1) := hdiv
      _ ≤ 2 ^ 127 := hpow
      _ < 10 ^ 39 := by norm_num
  · exact (zero_fits c.inner).1.trans (Int.natCast_nonneg _)

/-- A valid configuration's step has a next state. -/
theorem exists_step {s : State} (hv : s.cfg.Valid) : ∃ t, step s = .next t := by
  cases hr : s.rst with
  | true => exact ⟨_, step_of_rst hv hr⟩
  | false =>
    cases hf : s.inFlight with
    | some f =>
      rcases le_or_gt f.left 1 with hl | hl
      · obtain ⟨_, _, -, h⟩ := step_of_due (due_of_left_le_one hv hr hf hl)
        exact ⟨_, h⟩
      · exact ⟨_, step_of_working hv hr hf hl⟩
    | none =>
      cases hq : s.request with
      | some q => exact ⟨_, step_of_presented hv hr hf hq⟩
      | none => exact ⟨_, step_of_idle hv hr hf hq⟩

theorem step_eq_refused_iff (s : State) :
    step s = .refused .invalidConfiguration ↔ ¬ s.cfg.Constraints := by
  constructor
  · intro h hc
    obtain ⟨t, ht⟩ := exists_step (decide_eq_true hc)
    cases h.symm.trans ht
  · exact fun hc => if_neg fun hv => hc (valid_constraints hv)

/-- Settles O15: the step tests the constraints, and the bound on the exponent excludes nothing. -/
theorem invalidConfigurationRefused : Obligations.InvalidConfigurationRefused := by
  refine fun s => ⟨(step_eq_refused_iff s).trans (not_congr ⟨?_, ?_⟩), exists_step⟩
  · rintro ⟨hw, ⟨k, -, hk⟩, hrest⟩
    exact ⟨hw, ⟨k, hk⟩, hrest⟩
  · rintro ⟨hw, ⟨k, hk⟩, hmax, hrest⟩
    exact ⟨hw, ⟨k, exponent_lt hw hk hmax, hk⟩, hmax, hrest⟩

/-- A request that stays in flight through k steps has k fewer steps left (00_scope.md R9). -/
theorem run_working {q : Request} {n k : Nat} (hk : k < n) {s : State} (hv : s.cfg.Valid)
    (hr : s.rst = false) (hf : s.inFlight = some ⟨q, n⟩) :
    Host.Core.run core k s = .next { s with inFlight := some ⟨q, n - k⟩ } := by
  induction k generalizing n s with
  | zero => rw [Nat.sub_zero, ← hf]; rfl
  | succ k ih =>
    have hl : 1 < n := (Nat.le_add_left 1 k).trans_lt hk
    have hrest := ih (Nat.lt_sub_of_add_lt hk) (s := s.work ⟨q, n⟩) hv hr rfl
    rw [Nat.sub_sub, Nat.add_comm 1 k] at hrest
    exact (run_succ k (step_of_working hv hr hf hl)).trans hrest

/-- After the n steps that are left, the request is answered. -/
theorem run_answers {q : Request} {n : Nat} (hn : 1 ≤ n) {s : State} (hv : s.cfg.Valid)
    (hr : s.rst = false) (hf : s.inFlight = some ⟨q, n⟩) :
    ∃ t p, Host.Core.run core n s = .next t ∧ t.inFlight = none ∧ t.response = some p := by
  induction n, hn using Nat.le_induction generalizing s with
  | base =>
    obtain ⟨s', a, -, hstep⟩ := step_of_due (due_of_left_le_one hv hr hf le_rfl)
    exact ⟨_, a.response, run_succ 0 hstep, rfl, rfl⟩
  | succ n hn ih =>
    rw [run_succ n (step_of_working hv hr hf (Nat.lt_succ_of_le hn))]
    exact ih hv hr rfl

/-- Settles O17: acceptance, and then LATENCY steps of work, the last of which answers. -/
theorem responseAfterLatency : Obligations.ResponseAfterLatency := by
  intro s q hv hr hf hq
  have haccept := step_of_presented hv hr hf hq
  refine ⟨fun k hk => ?_, ?_⟩
  · have hrun := run_working hk (s := s.accept q) hv hr rfl
    rw [Nat.add_comm, run_succ k haccept, hrun]
    exact ⟨_, rfl, rfl, rfl⟩
  · rw [Nat.add_comm, run_succ _ haccept]
    exact run_answers (valid_latency_pos hv q) hv hr rfl

/-- Settles O18: acceptance gives at least one step, work leaves at least one, and only a response
that is an answer's is ever pending. -/
theorem protocolInvariantKept : Obligations.ProtocolInvariantKept := by
  intro s t hinv h
  obtain ⟨hv, ⟨-, rfl⟩ | ⟨-, f, hf, hl, rfl⟩ | ⟨-, f, -, -, s', a, -, rfl⟩ | ⟨-, -, q, -, rfl⟩ |
    ⟨-, -, -, rfl⟩⟩ := step_cases h
  · exact ⟨nofun, nofun⟩
  · obtain ⟨hflight, hresp⟩ := hinv
    refine ⟨?_, hresp⟩
    rintro f' ⟨⟩
    exact ⟨Nat.le_sub_one_of_lt hl, (hflight f hf).2⟩
  · refine ⟨nofun, ?_⟩
    rintro p ⟨⟩
    exact response_r_zero a
  · refine ⟨?_, nofun⟩
    rintro f' ⟨⟩
    exact ⟨valid_latency_pos hv q, rfl⟩
  · exact hinv

/-- Settles O19: at reset nothing is in flight and no response is pending. -/
theorem protocolInvariantAtReset : Obligations.ProtocolInvariantAtReset := ⟨nofun, nofun⟩

end Sys2Proof.Machine
end

section
/-! PROOFS. Operand assembly (30_encoding.md R65 to R67): every operand form is a type that a port holds,
and what is taken for a port reads back at its form. -/

namespace Sys2Proof

/-- A type whose values a port holds whole. -/
def IntTy.OnPort (t : IntTy) : Prop := 0 < t.width ∧ t.width ≤ 128

theorem onPort_of_isNType {n : IntTy} (h : n.isNType = true) : n.OnPort := by
  simp only [IntTy.isNType, Bool.or_eq_true, beq_iff_eq] at h
  unfold IntTy.OnPort
  omega

theorem inner_onPort {c : Cfg} (h : c.Valid) : c.inner.OnPort :=
  ⟨valid_width_pos h, valid_width_le h⟩

theorem prevUnsigned_onPort {c : Cfg} (h : c.Valid) : c.prevUnsigned.OnPort := by
  have hw := (valid_constraints h).1
  show 0 < c.width / 2 ∧ c.width / 2 ≤ 128
  omega

end Sys2Proof

namespace Sys2Proof.Machine

/-- The operand forms of the table: I, PrevUnsigned and the N types, of which u64 and u128 are two
(30_encoding.md R66). -/
theorem operandForms_cases (c : Cfg) {i : Instr} (hwf : i.wellFormed = true) :
    ∀ form ∈ [(operandForms c i).a, (operandForms c i).b, (operandForms c i).c], ∀ t ∈ form,
      t = c.inner ∨ t = c.prevUnsigned ∨ t.isNType = true := by
  cases i
  case fromrat n | cfromrat n | cmuli n | cdivi n | smuli n | smac n =>
    have hn : n.isNType = true := hwf
    simp [operandForms, hn]
  all_goals simp [operandForms, IntTy.isNType]

theorem operandForms_onPort {c : Cfg} (hv : c.Valid) {i : Instr} (hwf : i.wellFormed = true) :
    ∀ form ∈ [(operandForms c i).a, (operandForms c i).b, (operandForms c i).c], ∀ t ∈ form,
      t.OnPort := by
  intro form hform t ht
  obtain rfl | rfl | hn := operandForms_cases c hwf form hform t ht
  · exact inner_onPort hv
  · exact prevUnsigned_onPort hv
  · exact onPort_of_isNType hn

/-- The value a port carries at its form, if the opcode reads it. -/
def carried (form : Option IntTy) (p : Port) : Option Int := form.map fun t => t.read p

/-- What is taken for a port is the operand it carries; a port that is ignored takes none and is zero
(30_encoding.md R67). -/
theorem takeOperand_eq_some {form : Option IntTy} {ops rest : List Int} {p : Port}
    (hform : ∀ t ∈ form, t.OnPort) (h : takeOperand form ops = some (p, rest)) :
    ops = (carried form p).toList ++ rest ∧ (form = none → p = 0) := by
  unfold takeOperand at h
  split at h
  · cases h
    exact ⟨rfl, fun _ => rfl⟩
  · rename_i t
    split at h
    · cases h
    · rename_i v ops'
      split at h
      · rename_i hfit
        cases h
        obtain ⟨hpos, hle⟩ := hform t rfl
        refine ⟨?_, nofun⟩
        simp only [carried, Option.map_some, read_place hpos hle hfit]
        rfl
      · cases h

/-- The three ports are taken in their order and nothing is left over (30_encoding.md R67). -/
theorem assemble_eq_some {c : Cfg} {i : Instr} {ops : List Int} {q : Request}
    (h : assemble c i ops = some q) :
    q.cmd = encode i ∧ ∃ opsB opsC, takeOperand (operandForms c i).a ops = some (q.a, opsB) ∧
      takeOperand (operandForms c i).b opsB = some (q.b, opsC) ∧
      takeOperand (operandForms c i).c opsC = some (q.c, []) := by
  unfold assemble at h
  split at h
  · cases h
  · rename_i a opsB ha
    split at h
    · cases h
    · rename_i b opsC hb
      split at h
      · rename_i p hp
        cases h
        exact ⟨rfl, opsB, opsC, ha, hb, hp⟩
      · cases h

theorem readBack_eq (c : Cfg) (i : Instr) (q : Request) :
    readBack c i q = (carried (operandForms c i).a q.a).toList ++
      ((carried (operandForms c i).b q.b).toList ++ (carried (operandForms c i).c q.c).toList) := by
  unfold readBack carried
  cases (operandForms c i).a <;> cases (operandForms c i).b <;> cases (operandForms c i).c <;> rfl

/-- Settles O7: what is taken for each port is what the port carries. -/
theorem assembledOperandsReadBack : Obligations.AssembledOperandsReadBack := by
  intro c i ops q hv hwf h
  obtain ⟨hcmd, opsB, opsC, ha, hb, hc⟩ := assemble_eq_some h
  have hforms := operandForms_onPort hv hwf
  obtain ⟨hopsA, hzeroA⟩ := takeOperand_eq_some (hforms _ (by simp)) ha
  obtain ⟨hopsB, hzeroB⟩ := takeOperand_eq_some (hforms _ (by simp)) hb
  obtain ⟨hopsC, hzeroC⟩ := takeOperand_eq_some (hforms _ (by simp)) hc
  refine ⟨hcmd, ?_, hzeroA, hzeroB, hzeroC⟩
  rw [readBack_eq, hopsA, hopsB, hopsC, List.append_nil]

end Sys2Proof.Machine
end

section
/-! PROOFS. The responses of the meanings: every meaning answers a value of its result type or one of
the causes listed for it (10_state.md R27; 60_exceptions.md R271). -/

namespace Sys2Proof.Machine

/-- Settles O23: the two ways a meaning answers. -/
theorem everyInstructionAnswers : Obligations.EveryInstructionAnswers := by
  intro i s
  obtain ⟨a, h⟩ | ⟨n, rfl, h⟩ := exec_finish i s
  · exact ⟨_, a.response, h, rfl, .inl rfl⟩
  · exact ⟨_, _, h, rfl, .inr ⟨⟨n, rfl⟩, rfl⟩⟩

/-- An answer is a value of the type `t`, or a failure whose status is listed. -/
def Answer.Within (t : IntTy) (fails : List Status) : Answer → Prop
  | .ok t' _ => t' = t
  | a => a.response.status ∈ fails

section Within
variable (t : IntTy)

theorem ite_within {fails : List Status} {a b : Answer} (p : Prop) [Decidable p]
    (ha : a.Within t fails) (hb : b.Within t fails) : (if p then a else b).Within t fails := by
  split
  · exact ha
  · exact hb

theorem faultOvf_within : Answer.faultOvf.Within t [.faultOvf] := List.mem_singleton.mpr rfl

theorem none_within : Answer.none.Within t [.none] := List.mem_singleton.mpr rfl

theorem raw_within (v : Int) : (Answer.raw t v).Within t [.faultOvf] :=
  ite_within t _ rfl (faultOvf_within t)

theorem checked_within (v : Int) : (Answer.checked t v).Within t [.none] :=
  ite_within t _ rfl (none_within t)

theorem ofOption_within (r : Option Int) : (Answer.ofOption t r).Within t [.none] := by
  cases r with
  | none => exact none_within t
  | some v => rfl

end Within

theorem rawScaledDiv_within (c : Cfg) (n d : Int) :
    (rawScaledDiv c n d).Within c.inner [.faultOvf, .faultDiv0] := by
  unfold rawScaledDiv Answer.raw
  split
  · exact List.mem_of_mem_tail List.mem_cons_self
  · split
    · split
      · rfl
      · exact List.mem_cons_self
    · exact List.mem_cons_self

/-- The statuses other than OK that each opcode can give (60_exceptions.md R271). -/
def causes : Instr → List Status
  | .radd | .rsub | .rmul => [.faultOvf]
  | .rdiv | .fromrat _ => [.faultOvf, .faultDiv0]
  | .cfromint | .cfromrat _ | .muldiv | .cadd | .csub | .cmul | .cdiv | .cmuli _ | .cdivi _ => [.none]
  | _ => []

/-- Every meaning answers a value of its result type, or one of its causes. -/
theorem exec_within (i : Instr) (s : State) :
    ∃ (s' : State) (a : Answer), exec i s = .next (s'.finish a) ∧
      a.Within (resultType s.cfg i) (causes i) := by
  cases i
  case radd | rsub => exact ⟨s, _, rfl, raw_within _ _⟩
  case cfromint | cadd | csub => exact ⟨s, _, rfl, checked_within _ _⟩
  case cfromrat | cmul | cdiv | cmuli | cdivi => exact ⟨s, _, rfl, ofOption_within _ _⟩
  case rdiv | fromrat => exact ⟨s, _, rfl, rawScaledDiv_within _ _ _⟩
  case rmul => exact ⟨s, _, rfl, ite_within _ _ rfl (faultOvf_within _)⟩
  case muldiv =>
    refine ⟨s, _, rfl, ?_⟩
    split
    · rfl
    · exact none_within _
  case smuli n =>
    obtain ⟨v, h⟩ | h := execSmuli_finish n s
    · exact ⟨s, _, h, rfl⟩
    · exact ⟨s.drawn, _, h, rfl⟩
  all_goals exact ⟨s, _, rfl, rfl⟩

/-- The response of an answer within a type and causes. -/
theorem response_of_within {t : IntTy} {fails : List Status} {a : Answer} (h : a.Within t fails) :
    (a.response.status = .ok ∧ ∃ v, a.response.r = t.place v) ∨
      (a.response.status ∈ fails ∧ a.response.r = 0) := by
  cases a with
  | ok t' v =>
    obtain rfl : t' = t := h
    exact .inl ⟨rfl, v, rfl⟩
  | none | faultOvf | faultDiv0 | illegal => exact .inr ⟨h, rfl⟩

/-- The response a meaning gives. -/
theorem exec_response {i : Instr} {s t : State} {p : Response} (h : exec i s = .next t)
    (hp : t.response = some p) :
    (p.status = .ok ∧ ∃ v, p.r = (resultType s.cfg i).place v) ∨
      (p.status ∈ causes i ∧ p.r = 0) := by
  obtain ⟨s', a, hs', hwithin⟩ := exec_within i s
  cases h.symm.trans hs'
  cases hp
  exact response_of_within hwithin

/-- Settles O22: a placed value is below 2^width, and every other R is 0. -/
theorem resultUpperBitsZero : Obligations.ResultUpperBitsZero := by
  intro i s t p h hp
  obtain ⟨hok, v, hr⟩ | ⟨-, hr⟩ := exec_response h hp
  · exact ⟨hr ▸ place_lt _ v, fun hne => absurd hok hne⟩
  · rw [hr]
    exact ⟨two_pow_pos _, fun _ => rfl⟩

/-- Settles O24: the statuses of each opcode are OK and its causes. -/
theorem statusesByOpcode : Obligations.StatusesByOpcode := by
  intro i s t p h hp
  have hstatus : p.status ∈ Status.ok :: causes i :=
    List.mem_cons.mpr ((exec_response h hp).imp And.left And.left)
  cases i
  case radd | rsub | rmul | rdiv | fromrat | cfromint | cfromrat | muldiv | cadd | csub | cmul | cdiv |
    cmuli | cdivi => exact hstatus
  all_goals exact List.mem_singleton.mp hstatus

end Sys2Proof.Machine
end

section
/-! PROOFS. The requester's duty (10_state.md R31; 60_exceptions.md R273): a raw operator faults where its
W-bit steps leave the safe range, and the other meanings have no cause that fails the run. -/

namespace Sys2Proof.Machine

/-- A meaning that asks nothing and fails with NONE only never fails the run: NONE is an ordinary
result (60_exceptions.md R273). -/
theorem failsRun_iff_of_causes {i : Instr} {s : State} (hduty : dutyMet i s)
    (hi : ∀ st ∈ causes i, st = .none) :
    ∃ t p, exec i s = .next t ∧ t.response = some p ∧ (p.failsRun = false ↔ dutyMet i s) := by
  obtain ⟨s', a, h, hwithin⟩ := exec_within i s
  refine ⟨_, _, h, rfl, iff_of_true ?_ hduty⟩
  unfold Response.failsRun
  obtain ⟨hok, -⟩ | ⟨hfail, -⟩ := response_of_within hwithin
  · rw [hok]
  · rw [hi _ hfail]

/-- The answer of a raw step fails the run exactly where its test fails (42_add_sub.md R151). -/
theorem failsRun_ite_faultOvf (p : Prop) [Decidable p] (t : IntTy) (v : Int) :
    (if p then Answer.ok t v else .faultOvf).response.failsRun = false ↔ p := by
  by_cases hp : p
  · rw [if_pos hp]
    exact iff_of_true rfl hp
  · rw [if_neg hp]
    exact iff_of_false nofun hp

theorem failsRun_rawScaledDiv {c : Cfg} (h : c.Valid) (n d : Int) :
    (rawScaledDiv c n d).response.failsRun = false ↔
      d ≠ 0 ∧ c.inner.Fits (n * c.scale) ∧ ¬ (n * c.scale = c.inner.min ∧ d = -1) := by
  by_cases hd : d = 0
  · rw [rawScaledDiv, if_pos hd]
    exact iff_of_false nofun fun hduty => hduty.1 hd
  by_cases hp : c.inner.Fits (n * c.scale)
  · rw [rawScaledDiv_of_fits h hd hp, ← ite_not, failsRun_ite_faultOvf]
    exact ⟨fun hquot => ⟨hd, hp, hquot⟩, fun hduty => hduty.2.2⟩
  · rw [rawScaledDiv, if_neg hd, if_neg hp]
    exact iff_of_false nofun fun hduty => hp hduty.2.1

/-- Settles O26: RADD, RSUB, RMUL, RDIV and FROMRAT by their tests, the others by their causes. -/
theorem dutyDecidesFailure : Obligations.DutyDecidesFailure := by
  intro i s q ⟨hv, _⟩
  cases i
  case radd | rsub | rmul => exact ⟨_, _, rfl, rfl, failsRun_ite_faultOvf _ _ _⟩
  case rdiv | fromrat => exact ⟨_, _, rfl, rfl, failsRun_rawScaledDiv hv _ _⟩
  all_goals exact failsRun_iff_of_causes trivial (by simp [causes])

end Sys2Proof.Machine
end

section
/-! PROOFS. The bits a meaning reads (10_state.md R23, R28; 30_encoding.md R65, R66): with other bits on
the ports where the opcode does not look, a meaning answers the same. -/

namespace Sys2Proof

theorem read_eq_of_agreeAt {t : IntTy} {p p' : Port} (h : AgreeAt (some t) p p') :
    t.read p = t.read p' := congrArg t.val h

end Sys2Proof

namespace Sys2Proof.Machine

theorem unsignedOf_eq_of_agreeAt {w : Nat} {p p' : Port} (h : AgreeAt (some (.uint w)) p p') :
    unsignedOf w p = unsignedOf w p' := congrArg BitVec.toNat h

/-- The unit with the request in flight replaced, and else as it is. -/
def State.withSampled (s : State) (f : Flight) : State := { s with inFlight := some f }

@[simp] theorem withSampled_cfg (s : State) (f : Flight) : (s.withSampled f).cfg = s.cfg := rfl

@[simp] theorem withSampled_sampled (s : State) (f : Flight) : (s.withSampled f).sampled = f.req :=
  rfl

section Agree
variable {s : State} {f f' : Flight}

theorem withSampled_innerA (h : AgreeAt (some s.cfg.inner) f.req.a f'.req.a) :
    (s.withSampled f).innerA = (s.withSampled f').innerA := read_eq_of_agreeAt h

theorem withSampled_innerB (h : AgreeAt (some s.cfg.inner) f.req.b f'.req.b) :
    (s.withSampled f).innerB = (s.withSampled f').innerB := read_eq_of_agreeAt h

theorem withSampled_innerC (h : AgreeAt (some s.cfg.inner) f.req.c f'.req.c) :
    (s.withSampled f).innerC = (s.withSampled f').innerC := read_eq_of_agreeAt h

theorem withSampled_typedB {n : IntTy} (h : AgreeAt (some n) f.req.b f'.req.b) :
    (s.withSampled f).typedB n = (s.withSampled f').typedB n := read_eq_of_agreeAt h

/-- A meaning answers by what it reads at its operand forms; the state it answers in has no request in
flight. -/
theorem exec_withSampled (i : Instr) (ha : AgreeAt (operandForms s.cfg i).a f.req.a f'.req.a)
    (hb : AgreeAt (operandForms s.cfg i).b f.req.b f'.req.b)
    (hc : AgreeAt (operandForms s.cfg i).c f.req.c f'.req.c) :
    exec i (s.withSampled f) = exec i (s.withSampled f') := by
  cases i
  case zero | one | minv | maxv => rfl
  case fromint | cfromint | pass | iszero | ispos | isneg | sabs =>
    simp only [exec, execFromint, execCfromint, execPass, execIszero, execIspos, execIsneg, execSabs,
      withSampled_innerA ha]
    rfl
  case cmp | radd | rsub | cadd | csub | sadd | ssub | rmul | rdiv | cmul | cdiv | smul =>
    simp only [exec, execCmp, execRadd, execRsub, execCadd, execCsub, execSadd, execSsub, execRmul,
      execRdiv, execCmul, execCdiv, execSmul, withSampled_innerA ha, withSampled_innerB hb]
    rfl
  case cmuli | cdivi | smuli | smac =>
    simp only [exec, execCmuli, execCdivi, execSmuli, execSmac, withSampled_innerA ha,
      withSampled_typedB hb]
    rfl
  case fromrat | cfromrat =>
    simp only [exec, execFromrat, execCfromrat, withSampled_typedB hb, withSampled_innerC hc]
    rfl
  case muldiv =>
    simp only [exec, execMuldiv, withSampled_sampled, unsignedOf_eq_of_agreeAt ha,
      unsignedOf_eq_of_agreeAt hb, unsignedOf_eq_of_agreeAt hc]
    rfl
  case spow =>
    simp only [exec, execSpow, withSampled_sampled, withSampled_innerA ha, unsignedOf_eq_of_agreeAt hb]
    rfl
  case fromratio =>
    have hb' : unsignedOf (s.cfg.width / 2) f.req.b = unsignedOf (s.cfg.width / 2) f'.req.b :=
      unsignedOf_eq_of_agreeAt hb
    simp only [exec, execFromratio, withSampled_sampled, withSampled_cfg, hb']
    rfl

end Agree

/-- Settles O21: with the ports of the second request, which the opcode does not tell from its own, the
first state gives the response it gave, and the two then agree in all that a meaning reads. -/
theorem unreadBitsIgnored : Obligations.UnreadBitsIgnored := by
  intro s s' t t' q q' hdue hdue' hcfg hdraws hcmd hagree hs hs'
  rw [step_eq_runCommand_of_due hdue] at hs
  rw [step_eq_runCommand_of_due hdue', ← hcmd] at hs'
  cases hdec : decode q.cmd with
  | error e =>
    rw [runCommand_of_decode_error _ hdec] at hs hs'
    cases hs
    cases hs'
    rfl
  | ok i =>
    rw [runCommand_of_decode_ok _ hdec] at hs hs'
    obtain ⟨-, -, n, -, hf⟩ := hdue
    obtain ⟨-, -, n', -, hf'⟩ := hdue'
    obtain ⟨ha, hb, hc⟩ := hagree i hdec
    have hself : s.withSampled ⟨q, n⟩ = s := by rw [State.withSampled, ← hf]
    have hports := exec_withSampled (s := s) (f := ⟨q, n⟩) (f' := ⟨q', n'⟩) i ha hb hc
    rw [hself, hs] at hports
    obtain ⟨p, d, h, h'⟩ := exec_agree i (s := s.withSampled ⟨q', n'⟩) (s' := s') hcfg
      (sampled_eq hf').symm hdraws
    cases hports.trans h
    cases hs'.symm.trans h'
    rfl

end Sys2Proof.Machine
end

section
/-! PROOFS. FROMRAT and CFROMRAT (40_construction.md R103, R104): the raw rescaled division, and the value
or FAIL, of the operands as each narrows them. -/

namespace Sys2Proof.Machine

section Exec
variable {s : State} {q : Request} (h : Ready s q) (n : IntTy)
include h

/-- FROMRAT is the raw rescaled division of the saturated numerator (40_construction.md R103). -/
theorem exec_fromrat :
    exec (.fromrat n) s = .next (s.finish
      (rawScaledDiv s.cfg (s.cfg.inner.sat (n.read q.b)) (s.cfg.inner.read q.c))) := by
  obtain ⟨-, _, hf⟩ := h
  rw [← typedB_eq hf, ← innerC_eq hf]
  rfl

theorem exec_cfromrat :
    exec (.cfromrat n) s = .next (s.finish
      (.ofOption s.cfg.inner (checkedRational s.cfg (n.read q.b) (s.cfg.inner.read q.c)))) := by
  obtain ⟨-, _, hf⟩ := h
  rw [← typedB_eq hf, ← innerC_eq hf]
  rfl

end Exec

/-- CFROMRAT's value: the W-bit division overflows only at `MIN_W / -1` (40_construction.md R104). -/
theorem checkedRational_eq {c : Cfg} (h : c.Valid) (n d : Int) :
    checkedRational c n d =
      if d = 0 ∨ ¬ c.inner.Fits n ∨ ¬ c.inner.Fits (n * c.scale) ∨
        (n * c.scale = c.inner.min ∧ d = -1)
      then none else some (divQuot c n d) := by
  unfold checkedRational
  by_cases hd : d = 0
  · rw [if_pos hd, if_pos (.inl hd)]
  by_cases hn : c.inner.Fits n
  case neg => rw [if_neg hd, if_pos hn, if_pos (.inr (.inl hn))]
  by_cases hp : c.inner.Fits (n * c.scale)
  case neg => rw [if_neg hd, if_neg (not_not_intro hn), if_pos hp, if_pos (.inr (.inr (.inl hp)))]
  rw [if_neg hd, if_neg (not_not_intro hn), if_neg (not_not_intro hp)]
  by_cases hedge : n * c.scale = c.inner.min ∧ d = -1
  · rw [if_neg fun hquot => (truncDiv_fits_iff h hp hd).mp hquot hedge,
      if_pos (.inr (.inr (.inr hedge)))]
  · have hnone : ¬ (d = 0 ∨ ¬ c.inner.Fits n ∨ ¬ c.inner.Fits (n * c.scale) ∨
        (n * c.scale = c.inner.min ∧ d = -1)) := by
      rintro (hzero | hwide | hover | hmin)
      exacts [hd hzero, hwide hn, hover hp, hedge hmin]
    rw [if_pos ((truncDiv_fits_iff h hp hd).mpr hedge), if_neg hnone, truncDiv_eq_tdiv, divQuot]

/-- Settles O29: FROMRAT is the raw rescaled division, whose causes come in the order of its tests. -/
theorem fromRationalFaults : Obligations.FromRationalFaults := by
  refine ⟨fun _ => encode_eq_typedWord rfl, fun s q n h => ?_⟩
  rw [exec_fromrat h, finish_rawScaledDiv s h.1]
  rfl

/-- Settles O30: FAIL is answered NONE, a value is placed. -/
theorem checkedFromRational : Obligations.CheckedFromRational := by
  refine ⟨fun _ => encode_eq_typedWord rfl, fun s q n h => ?_⟩
  rw [exec_cfromrat h, checkedRational_eq h.1, apply_ite (Answer.ofOption s.cfg.inner),
    apply_ite s.finish]
  rfl

end Sys2Proof.Machine
end

section
/-! PROOFS. Instructions against each other, from their settled next states: the zero divisor first
(60_exceptions.md R272), and the variants where nothing overflows (42_add_sub.md R150; 43_mul_div.md
R170). -/

namespace Sys2Proof.Machine

/-- Settles O25: the divisor is tested before the product. -/
theorem zeroDivisorFirst : Obligations.ZeroDivisorFirst := by
  intro s q h
  refine ⟨fun hzero => ?_, fun n hzero => ?_⟩
  · rw [rawDivide.2 s q h, if_pos hzero]
  · rw [fromRationalFaults.2 s q n h, if_pos hzero]

/-- Settles O39: each variant gives the exact result where that fits. -/
theorem addSubVariantsAgree : Obligations.AddSubVariantsAgree := by
  intro s q h
  obtain ⟨hradd, hrsub⟩ := rawAddSub.2.2 s q h
  obtain ⟨hcadd, hcsub⟩ := checkedAddSub.2.2 s q h
  obtain ⟨hsadd, hssub⟩ := saturatingAddSub.2.2 s q h
  refine ⟨fun hfit => ?_, fun hfit => ?_⟩
  · rw [hradd, hcadd, hsadd, if_pos hfit, if_pos hfit, if_pos hfit]
    exact ⟨rfl, rfl⟩
  · rw [hrsub, hcsub, hssub, if_pos hfit, if_pos hfit, if_pos hfit]
    exact ⟨rfl, rfl⟩

/-- Settles O44: dividing by DIV keeps a product that fits in the type, and a quotient that fits is not
`MIN_W / -1`. -/
theorem rawAgreesWithChecked : Obligations.RawAgreesWithChecked := by
  intro s q h
  refine ⟨fun hprod => ?mul, fun hy hprod hquot => ?div⟩
  case mul =>
    have hquot : s.cfg.inner.Fits (mulQuot s.cfg (s.cfg.inner.read q.a) (s.cfg.inner.read q.b)) := by
      rw [mulQuot, ← truncDiv_eq_tdiv]
      exact truncDiv_fits hprod (valid_scale_pos h.1)
    rw [rawMultiply.2 s q h, checkedMultiply.2 s q h, if_pos hprod, if_pos hquot]
  case div =>
    have hedge := hquot
    rw [divQuot, ← truncDiv_eq_tdiv, truncDiv_fits_iff h.1 hprod hy] at hedge
    rw [rawDivide.2 s q h, checkedDivide.2 s q h, if_neg hy, if_neg (not_not_intro hprod),
      if_neg hedge, if_pos ⟨hy, hquot⟩]

end Sys2Proof.Machine
end

section
/-! PROOFS. SMULI (45_cross_width.md R213, R214): its value by the sign of the product, and the draw
where that is zero. -/

namespace Sys2Proof.Machine

section Value
variable {c : Cfg} (h : c.Valid) {n : IntTy} {x o : Int}
include h

/-- CMULI's value is the truncated product where `MulIntFits` holds, else FAIL. -/
theorem checkedMulInt_of_fits (hfit : MulIntFits c n x o) :
    checkedMulInt c n x o = some (mulQuot c x o) := by
  rw [checkedMulInt_eq h, truncDiv_eq_tdiv]
  exact if_pos hfit

theorem checkedMulInt_of_not_fits (hfail : ¬ MulIntFits c n x o) :
    checkedMulInt c n x o = none := by
  rw [checkedMulInt_eq h, truncDiv_eq_tdiv]
  exact if_neg hfail

/-- Where CMULI fails, SMULI's value is the bound by the sign of the product. -/
theorem saturatingMulInt_of_not_fits (hfail : ¬ MulIntFits c n x o) :
    saturatingMulInt c n x o =
      if 0 < o * x then some n.max else if o * x < 0 then some n.min else none := by
  simp only [saturatingMulInt, checkedMulInt_of_not_fits h hfail, ← Int.sign_mul, Int.sign_pos_iff,
    Int.sign_neg_iff]

/-- The sign-zero failure (45_cross_width.md R214). -/
theorem not_fits_and_mul_eq_zero_iff :
    (¬ MulIntFits c n x o ∧ o * x = 0) ↔ (x = 0 ∧ ¬ c.inner.Fits o) := by
  rw [← saturatingMulInt_eq_none_iff h n]
  constructor
  · rintro ⟨hfail, hzero⟩
    rw [saturatingMulInt_of_not_fits h hfail, hzero]
    rfl
  · intro hnone
    obtain ⟨rfl, hwide⟩ := (saturatingMulInt_eq_none_iff h n x o).mp hnone
    exact ⟨fun hfit => hwide hfit.1, mul_zero o⟩

end Value

section Exec
variable {s : State} {q : Request} (h : Ready s q) {n : IntTy}
include h

theorem exec_smuli_of_value {v : Int}
    (hval : saturatingMulInt s.cfg n (s.cfg.inner.read q.a) (n.read q.b) = some v) :
    exec (.smuli n) s = .next (given s .ok (n.place v)) := by
  obtain ⟨-, _, hf⟩ := h
  rw [← innerA_eq hf, ← typedB_eq hf] at hval
  exact execSmuli_of_value hval

/-- Where SMULI has no value it draws one of type N (45_cross_width.md R214). -/
theorem exec_smuli_of_none
    (hnone : saturatingMulInt s.cfg n (s.cfg.inner.read q.a) (n.read q.b) = none) :
    ∃ v, n.Fits v ∧
      exec (.smuli n) s = .next (given { s with draws := s.draws + 1 } .ok (n.place v)) := by
  obtain ⟨-, _, hf⟩ := h
  rw [← innerA_eq hf, ← typedB_eq hf] at hnone
  refine ⟨drawOf n s.draws, read_fits n _, ?_⟩
  simp only [exec, execSmuli, hnone]
  rfl

end Exec

/-- Settles O52: the draw case is where SMULI has no value. -/
theorem saturatingMultiplyIntegerDraw : Obligations.SaturatingMultiplyIntegerDraw :=
  fun _ _ n h => ⟨not_fits_and_mul_eq_zero_iff h.1, fun hx ho =>
    exec_smuli_of_none h ((saturatingMulInt_eq_none_iff h.1 n _ _).mpr ⟨hx, ho⟩)⟩

/-- Settles O51: CMULI's value, and where it fails the three signs of the product. -/
theorem saturatingMultiplyInteger : Obligations.SaturatingMultiplyInteger := by
  refine ⟨fun _ => encode_eq_typedWord rfl, fun s q n h => ⟨fun hfit => ?_, fun hfail => ?_⟩⟩
  · refine exec_smuli_of_value h ?_
    rw [saturatingMulInt, checkedMulInt_of_fits h.1 hfit]
  · have hval := saturatingMulInt_of_not_fits h.1 hfail
    refine ⟨fun hpos => ?_, fun hneg => ?_, fun hzero => ?_⟩
    · rw [if_pos hpos] at hval
      exact exec_smuli_of_value h hval
    · rw [if_neg (not_lt.mpr hneg.le), if_pos hneg] at hval
      exact exec_smuli_of_value h hval
    · rw [hzero] at hval
      exact exec_smuli_of_none h hval

end Sys2Proof.Machine
end

section
/-! PROOFS. The corner cases of SPOW (44_saturating.md R193): the products by 0, ONE and -ONE, and the
rounds of `powState` from each of these bases. -/

namespace Sys2Proof.Machine

section Products
variable {c : Cfg} (h : c.Valid)
include h

/-- ONE is neutral for the rescaled product. -/
theorem mulQuot_scale (r : Int) : mulQuot c r c.scale = r :=
  Int.mul_tdiv_cancel r (valid_scale_pos h).ne'

theorem mulQuot_neg_scale (r : Int) : mulQuot c r (-c.scale) = -r := by
  rw [mulQuot, mul_neg, Int.neg_tdiv, Int.mul_tdiv_cancel r (valid_scale_pos h).ne']

theorem neg_scale_fits : c.inner.Fits (-c.scale) := by
  obtain ⟨-, hmax⟩ := valid_scale_fits h
  have hmin := inner_min_eq c
  have hpos := valid_scale_pos h
  exact ⟨by omega, by omega⟩

end Products

theorem mulQuot_zero (c : Cfg) (r : Int) : mulQuot c r 0 = 0 := by
  rw [mulQuot, mul_zero, Int.zero_tdiv]

/-- From base 0, acc stays 0, and the result becomes 0 at the first set bit. -/
theorem powState_zero (c : Cfg) (e k : Nat) :
    powState c 0 e k = (if e % 2 ^ k = 0 then c.scale else 0, 0) := by
  have hsat : c.inner.sat 0 = 0 := sat_of_fits (zero_fits _)
  induction k with
  | zero => simp [powState, Nat.mod_one]
  | succ k ih =>
    have hmod : e % 2 ^ (k + 1) = e % 2 ^ k + 2 ^ k * (e / 2 ^ k % 2) := Nat.mod_pow_succ
    rcases Nat.mod_two_eq_zero_or_one (e / 2 ^ k) with hbit | hbit <;>
      simp [powState, ih, mulQuot_zero, hsat, hmod, hbit, Nat.testBit_eq_decide_div_mod_eq]

section Ones
variable {c : Cfg} (h : c.Valid) (e k : Nat)
include h

/-- From base ONE, result and acc stay ONE. -/
theorem powState_scale : powState c c.scale e k = (c.scale, c.scale) := by
  have hsat := sat_of_fits (valid_scale_fits h)
  induction k with
  | zero => rfl
  | succ k ih => simp only [powState, ih, mulQuot_scale h, hsat, ite_self]

/-- From base -ONE, acc is ONE after the first round, and the result is decided by the lowest bit. -/
theorem powState_neg_scale :
    powState c (-c.scale) e (k + 1) = (if e % 2 = 0 then c.scale else -c.scale, c.scale) := by
  have hsat := sat_of_fits (valid_scale_fits h)
  have hnegsat := sat_of_fits (neg_scale_fits h)
  induction k with
  | zero =>
    rcases Nat.mod_two_eq_zero_or_one e with hbit | hbit <;>
      simp [powState, mulQuot_neg_scale h, hsat, hnegsat, hbit]
  | succ k ih =>
    rw [powState, ih]
    simp only [mulQuot_scale h, apply_ite c.inner.sat, hsat, hnegsat, ite_self]

end Ones

/-- Settles O48: the corner bases through 64 rounds. -/
theorem powerCorners : Obligations.PowerCorners := by
  intro s q h
  have hpow := saturatingPower.2 s q h
  have hlt : q.b.toNat % 2 ^ 64 < 2 ^ 64 := Nat.mod_lt _ (two_pow_pos 64)
  refine ⟨fun he => ?_, fun hx he => ?_, fun hx => ?_, fun hx => ?_⟩
  · rw [he, powState_fst_of_bitLength_le _ _ (Nat.zero_le 64 : bitLength 0 ≤ 64)] at hpow
    exact hpow
  · rw [hx, powState_zero, Nat.mod_eq_of_lt hlt, if_neg he] at hpow
    exact hpow
  · rw [hx, powState_scale h.1] at hpow
    exact hpow
  · rw [hx, powState_neg_scale h.1, Nat.mod_mod_of_dvd _ (by decide : 2 ∣ 2 ^ 64)] at hpow
    exact hpow

end Sys2Proof.Machine
end

section
/-! PROOFS. RATIO_MUL and the purpose of SMAC (46_accumulate.md R231, R235): the whole and the
fractional part of the product add up to the exact quotient. -/

namespace Sys2Proof.Machine

/-- Law L1 of RATIO_MUL (46_accumulate.md R231). -/
theorem ratioMul_fits {c : Cfg} (h : c.Valid) (f : Nat) (y : Int) (n : IntTy) :
    n.Fits (ratioMul c f y n) := by
  unfold ratioMul
  split
  · rename_i e he
    have hkey := List.find?_some he
    have hmem := List.mem_of_find?_eq_some he
    simp only [Bool.and_eq_true, beq_iff_eq] at hkey
    obtain ⟨-, rfl⟩ := hkey
    obtain ⟨-, -, -, -, -, -, hratio, -⟩ := valid_constraints h
    exact (hratio e hmem).1
  · split
    · exact zero_fits n
    · exact read_fits n _

/-- Settles O53: L1 and L2. -/
theorem ratioMulLaws : Obligations.RatioMulLaws :=
  fun _ f y n hv _ => ⟨ratioMul_fits hv f y n, ratioMul_of_zero_parts hv y n⟩

/-- The whole part of x times y, and the quotient of the fractional part, make the quotient of the
magnitude of x, where the product is a multiple of DIV (46_accumulate.md R235). -/
theorem whole_add_frac_eq_tdiv {d m : Nat} {y : Int} (hd : d ≠ 0) (hdvd : (d : Int) ∣ m * y) :
    y * (m / d : Nat) + ((m % d : Nat) * y).tdiv d = (m * y).tdiv d := by
  obtain ⟨k, hk⟩ := hdvd
  have hd' : (d : Int) ≠ 0 := Nat.cast_ne_zero.mpr hd
  have hm : (m : Int) = (m % d : Nat) + d * (m / d : Nat) := by
    exact_mod_cast (Nat.mod_add_div m d).symm
  have hfrac : ((m % d : Nat) : Int) * y = d * (k - y * (m / d : Nat)) := by
    linear_combination hk - y * hm
  rw [hfrac, hk, Int.mul_tdiv_cancel_left _ hd', Int.mul_tdiv_cancel_left _ hd']
  ring

/-- The excess of SMAC where nothing saturates and RATIO_MUL is exact (46_accumulate.md R235). -/
theorem smacExcess_of_exact {c : Cfg} (h : c.Valid) {n : IntTy} {x y : Int}
    (hdvd : c.scale ∣ (x.natAbs : Int) * y)
    (hratio : ratioMul c (x.natAbs % c.div) y n = ((x.natAbs % c.div : Nat) * y).tdiv c.scale)
    (hwhole : n.Fits ((x.natAbs / c.div : Nat) : Int))
    (hprod : n.Fits (y * (x.natAbs / c.div : Nat)))
    (hquot : n.Fits (((x.natAbs : Int) * y).tdiv c.scale)) :
    smacExcess c n x y = ((x.natAbs : Int) * y).tdiv c.scale := by
  have hsum : y * (x.natAbs / c.div : Nat) + ((x.natAbs % c.div : Nat) * y).tdiv c.scale =
      ((x.natAbs : Int) * y).tdiv c.scale := whole_add_frac_eq_tdiv (valid_div_ne_zero h) hdvd
  rw [smacExcess, floorDiv, floorMod, sat_of_fits hwhole, sat_of_fits hprod, hratio, hsum,
    sat_of_fits hquot]

/-- The quotient by the magnitude of x has the sign of x put back by step 6 (46_accumulate.md R232). -/
theorem smacValue_of_excess {c : Cfg} {n : IntTy} {x y : Int}
    (hexcess : smacExcess c n x y = ((x.natAbs : Int) * y).tdiv c.scale) :
    smacValue c n x y = n.sat (y + (x * y).tdiv c.scale) := by
  rw [smacValue, hexcess]
  split
  case isTrue hpos => rw [Int.natAbs_of_nonneg hpos]
  case isFalse hneg =>
    rw [Int.ofNat_natAbs_of_nonpos (not_le.mp hneg).le, neg_mul, Int.neg_tdiv, sub_neg_eq_add]

/-- Settles O56: the excess is the exact quotient by the magnitude of x. -/
theorem accumulatePurpose : Obligations.AccumulatePurpose := by
  rintro s q n x y nat frac h hacc hx hy rfl rfl hdvd hratio hwhole hprod hquot
  have hdvd' : s.cfg.scale ∣ (x.natAbs : Int) * y := by
    rwa [← Int.dvd_natAbs, Int.natAbs_mul, Int.natAbs_natCast, ← Int.natAbs_mul, Int.dvd_natAbs]
  rw [hacc] at hratio
  rw [exec_smac h, ← hx, ← hy,
    smacValue_of_excess (smacExcess_of_exact h.1 hdvd' hratio hwhole hprod hquot)]

end Sys2Proof.Machine
end
